-- ==== Sys2Proof/Word.lean ====
section
/-! DEFINITION. The plain value types of the block: bytes, register words, tick counts, line levels, 5-byte frames. -/

namespace Sys2Proof

/-- One byte of a frame (10_state.md R10, R14). -/
abbrev Byte := BitVec 8

/-- A register word of the host's port (20_memory.md R40), and the width of `elapsed` (10_state.md R13). -/
abbrev Word := BitVec 32

/-- A time configuration field: an unsigned 24-bit count of ticks (10_state.md R27). -/
abbrev Ticks := BitVec 24

/-- A level of the line (00_scope.md section 7: Low = 0, High = 1). -/
inductive Level where
  | low
  | high
  deriving DecidableEq, Repr, Inhabited

/-- The opposite level (00_scope.md R9, `not v` on a level). -/
def Level.opposite : Level → Level
  | .low => .high
  | .high => .low

/-- A frame: exactly five bytes, in the order of arrival (30_encoding.md R61): humidity-integer,
humidity-fraction, temperature-integer, temperature-fraction, checksum. -/
@[ext] structure Frame where
  b0 : Byte
  b1 : Byte
  b2 : Byte
  b3 : Byte
  b4 : Byte
  deriving DecidableEq, Repr

/-- All five bytes 0. -/
def Frame.zero : Frame := ⟨0#8, 0#8, 0#8, 0#8, 0#8⟩

end Sys2Proof
end

