-- ==== Sys2Proof/Config.lean ====
section
/-! DEFINITION. What is fixed for one machine: the reset constants of 00_scope.md R5, the two open parameters that no
rule reads, and the one free value of the model, the line's oracle. -/

namespace Sys2Proof

/-- The line's oracle: the level at the `n`-th tick whose sample nothing else has fixed (00_scope.md R7,
93_implementation_defined.md W1). No body: nothing can be proved of it (log 2). -/
opaque Config.lineAt : Nat → Level

/-- `BASE`, where the platform maps the register block: OPEN (00_scope.md R5, W5). No rule reads it (log 12). -/
opaque Config.base : Nat

/-- `CLK_PER_US` less one: the parameter is OPEN, an integer of at least 1 (00_scope.md R5, W6). No rule reads it (log 12). -/
opaque Config.clkPerUsLessOne : Nat

/-- `CLK_PER_US`, clock cycles per tick, at least 1 (00_scope.md R5). -/
def Config.clkPerUs : Nat := Config.clkPerUsLessOne + 1

/-- `FRAME_BITS` (00_scope.md R5, 30_encoding.md R61). -/
abbrev Config.frameBits : Nat := 40

/-- Reset value of `THRESH` (10_state.md R28). -/
def Config.threshReset : Ticks := 45#24

/-- Reset value of `T_START_A`, 50 ms (10_state.md R29). -/
def Config.tStartAReset : Ticks := 50000#24

/-- Reset value of `T_START_B`, 20 ms (10_state.md R30). -/
def Config.tStartBReset : Ticks := 20000#24

/-- Reset value of `T_SETTLE` (10_state.md R31). -/
def Config.tSettleReset : Ticks := 40#24

/-- Reset value of `T_ACK` (10_state.md R32). -/
def Config.tAckReset : Ticks := 2000#24

/-- Reset value of `T_BITSTART` (10_state.md R33). -/
def Config.tBitStartReset : Ticks := 1000#24

/-- Reset value of `T_MEASURE` (10_state.md R34). -/
def Config.tMeasureReset : Ticks := 2000#24

/-- Reset value of `T_BITEND` (10_state.md R35). -/
def Config.tBitEndReset : Ticks := 1000#24

/-- Reset value of `T_BACKOFF`, 120 ms (10_state.md R36). -/
def Config.tBackoffReset : Ticks := 120000#24

/-- Reset value of `CFG.START_LEVEL`: High (10_state.md R26). -/
def Config.startLevelReset : Level := .high

/-- Reset value of `CFG.AUTO_RETRY`: 0 (10_state.md R26). -/
def Config.autoRetryReset : Bool := false

end Sys2Proof
end

