-- ==== Sys2Proof/Machine/State.lean ====
section
/-! DEFINITION. The state of the block and its reset, the steps still to come, and the ways a step can stop. -/

namespace Sys2Proof.Machine

/-- The twelve phases (30_encoding.md R65); an enumeration, so that codes 12 to 15 are unrepresentable (R70). -/
inductive Phase where
  | idle
  | startA
  | startB
  | settle
  | ackA
  | ackB
  | ackC
  | bitStart
  | bitMeasure
  | bitEnd
  | validate
  | backoff
  deriving DecidableEq, Repr

/-- The failure reasons with `none` for no failure (30_encoding.md R67); codes 6 and 7 are unrepresentable (R70). -/
inductive Reason where
  | none
  | sensorUnresponsive
  | bitStartTimeout
  | bitMeasureTimeout
  | bitEndTimeout
  | checksumMismatch
  deriving DecidableEq, Repr

/-- The RetryController states (30_encoding.md R66). -/
inductive RState where
  | idle
  | acquiring
  | success
  | failure
  deriving DecidableEq, Repr

/-- One step still to come, of one of the three agents of 00_scope.md R7 or of the reset input (log 1). -/
inductive Event where
  /-- A tick at which the line is sampled at `sample`. -/
  | tick (sample : Level)
  /-- The host performs `MemRead(addr, n)`. -/
  | read (addr n : Nat)
  /-- The host performs `MemWrite(addr, n, v)`. -/
  | write (addr n : Nat) (v : Word)
  /-- The sensor sends one whole data symbol (log 7). -/
  | symbol (bit : Bool) (gap width : Nat)
  /-- `rst` is asserted and released (70_reset_and_hazards.md R180; log 6). -/
  | reset
  deriving DecidableEq, Repr

/-- The state: everything 10_state.md gives the block, then the model's own four fields. -/
structure State where
  /-- Working frame `x[0..4]` (R10). -/
  x : Frame
  /-- Phase register (R11). -/
  pc : Phase
  /-- Index of the data bit being sampled, 0 to 39 (R12). -/
  bitIdx : Fin 40
  /-- Duration accumulator (R13). -/
  elapsed : Word
  /-- Result frame `D[0..4]` (R14). -/
  d : Frame
  /-- Computed checksum of the last validation (R15). -/
  chkCalc : Byte
  /-- Received checksum of the last validation (R15). -/
  chkRecv : Byte
  /-- Failure reason (R16). -/
  reason : Reason
  /-- `D` holds a validated frame (R17). -/
  rvalid : Bool
  /-- RetryController state (R18). -/
  rstate : RState
  /-- `IFLAG.OK_IF` (R19). -/
  okIf : Bool
  /-- `IFLAG.FAIL_IF` (R19). -/
  failIf : Bool
  /-- `IEN.OK_IE` (R20). -/
  okIe : Bool
  /-- `IEN.FAIL_IE` (R20). -/
  failIe : Bool
  /-- `CFG.AUTO_RETRY` (R26). -/
  autoRetry : Bool
  /-- `CFG.START_LEVEL` (R26). -/
  startLevel : Level
  /-- Bit threshold (R28). -/
  thresh : Ticks
  /-- First drive hold (R29). -/
  tStartA : Ticks
  /-- Second drive hold (R30). -/
  tStartB : Ticks
  /-- Settling delay (R31). -/
  tSettle : Ticks
  /-- Timeout of each acknowledgement wait (R32). -/
  tAck : Ticks
  /-- Timeout of the wait for a bit's rise (R33). -/
  tBitStart : Ticks
  /-- Timeout of a pulse measurement (R34). -/
  tMeasure : Ticks
  /-- Timeout of the wait for a bit's end (R35). -/
  tBitEnd : Ticks
  /-- Backoff before an automatic retry (R36). -/
  tBackoff : Ticks
  /-- Pad output enable (R24). -/
  lineOe : Bool
  /-- Level driven when `lineOe` (R24). -/
  lineOut : Level
  /-- The model's own: the sample `line` of the tick being performed (R25; log 3). -/
  lineIn : Level
  /-- The model's own: the steps still to come, first one first (00_scope.md R7; log 1). -/
  agenda : List Event
  /-- The model's own: how many free samples have been taken (log 2). -/
  freeIdx : Nat
  /-- The model's own: the value the last `MemRead` gave the host (45_host_interface.md R130; log 4). -/
  readData : Word
  deriving DecidableEq, Repr

/-- The block after reset (10_state.md R39, 70_reset_and_hazards.md R180), with nothing on the agenda. -/
def State.reset : State where
  x := Frame.zero
  pc := .idle
  bitIdx := 0
  elapsed := 0#32
  d := Frame.zero
  chkCalc := 0#8
  chkRecv := 0#8
  reason := .none
  rvalid := false
  rstate := .idle
  okIf := false
  failIf := false
  okIe := false
  failIe := false
  autoRetry := Config.autoRetryReset
  startLevel := Config.startLevelReset
  thresh := Config.threshReset
  tStartA := Config.tStartAReset
  tStartB := Config.tStartBReset
  tSettle := Config.tSettleReset
  tAck := Config.tAckReset
  tBitStart := Config.tBitStartReset
  tMeasure := Config.tMeasureReset
  tBitEnd := Config.tBitEndReset
  tBackoff := Config.tBackoffReset
  lineOe := false
  lineOut := .low
  lineIn := .low
  agenda := []
  freeIdx := 0
  readData := 0#32

/-- Faults: none. The block has no fatal error and no error response (60_exceptions.md R161, 20_memory.md R46), so no
step can fault; what aborts an attempt is a next state (44_retry_controller.md R118). Safe (log 17). -/
inductive Fault where
  deriving DecidableEq, Repr

/-- Why a step is refused. -/
inductive Refusal where
  /-- Raised by an arm of `exec` whose instruction has no meaning yet. Safe. -/
  | notModelled (mnemonic : String)
  /-- Raised by a host access of a width other than 4 bytes (20_memory.md R42, W7). Safe: no meaning is given. -/
  | accessWidth
  /-- Raised by a host access at an offset that is no multiple of 4 (20_memory.md R42, W7). Safe. -/
  | accessMisaligned
  /-- Raised by a host access beyond offset 0xFC (20_memory.md R42, W7). Safe. -/
  | accessOutOfRange
  /-- Raised by `exec` of a reserved phase code 12 to 15, which no state holds (30_encoding.md R70; log 9). Safe. -/
  | reservedPhase
  deriving DecidableEq, Repr

end Sys2Proof.Machine
end

