-- ==== Sys2Proof/Machine/Operands.lean ====
section
/-! DEFINITION. Codes of the enumerations, assembly of bits into frames, the checksum, and the register words the host
reads. -/

namespace Sys2Proof.Machine

/-- Phase codes (30_encoding.md R65). -/
def phaseCode : Phase → BitVec 4
  | .idle => 0#4
  | .startA => 1#4
  | .startB => 2#4
  | .settle => 3#4
  | .ackA => 4#4
  | .ackB => 5#4
  | .ackC => 6#4
  | .bitStart => 7#4
  | .bitMeasure => 8#4
  | .bitEnd => 9#4
  | .validate => 10#4
  | .backoff => 11#4

/-- The phase of a code, `none` for the reserved codes (30_encoding.md R65, R70). -/
def phaseOfCode (code : BitVec 4) : Option Phase :=
  match code.toNat with
  | 0 => some .idle
  | 1 => some .startA
  | 2 => some .startB
  | 3 => some .settle
  | 4 => some .ackA
  | 5 => some .ackB
  | 6 => some .ackC
  | 7 => some .bitStart
  | 8 => some .bitMeasure
  | 9 => some .bitEnd
  | 10 => some .validate
  | 11 => some .backoff
  | _ => none

/-- RetryController state codes (30_encoding.md R66). -/
def rstateCode : RState → BitVec 2
  | .idle => 0#2
  | .acquiring => 1#2
  | .success => 2#2
  | .failure => 3#2

/-- Failure reason codes (30_encoding.md R67). -/
def reasonCode : Reason → BitVec 3
  | .none => 0#3
  | .sensorUnresponsive => 1#3
  | .bitStartTimeout => 2#3
  | .bitMeasureTimeout => 3#3
  | .bitEndTimeout => 4#3
  | .checksumMismatch => 5#3

/-- A level as a register bit: Low = 0, High = 1 (00_scope.md section 7). -/
def levelBit : Level → BitVec 1
  | .low => 0#1
  | .high => 1#1

/-- A register bit as a level. -/
def bitLevel (b : Bool) : Level := if b then .high else .low

/-- Byte `k` of a frame. -/
def frameGet (f : Frame) : Fin 5 → Byte
  | 0 => f.b0
  | 1 => f.b1
  | 2 => f.b2
  | 3 => f.b3
  | 4 => f.b4

/-- A frame with byte `k` replaced. -/
def frameSet (f : Frame) (k : Fin 5) (v : Byte) : Frame :=
  match k with
  | 0 => { f with b0 := v }
  | 1 => { f with b1 := v }
  | 2 => { f with b2 := v }
  | 3 => { f with b3 := v }
  | 4 => { f with b4 := v }

/-- The byte of frame position `i`: `i / 8` (30_encoding.md R63). -/
def byteIndex (i : Fin 40) : Fin 5 := ⟨i.val / 8, by omega⟩

/-- The bit of its byte that frame position `i` is: `7 - (i mod 8)` (30_encoding.md R63). -/
def bitPosition (i : Fin 40) : Nat := 7 - i.val % 8

/-- `v` with bit `k` set to `b`, every other bit unchanged. -/
def byteWithBit (v : Byte) (k : Nat) (b : Bool) : Byte :=
  if b then v ||| (1#8 <<< k) else v &&& ~~~(1#8 <<< k)

/-- `pack(x, i, b)` (42_bit_sampler.md R104). -/
def pack (f : Frame) (i : Fin 40) (b : Bool) : Frame :=
  frameSet f (byteIndex i) (byteWithBit (frameGet f (byteIndex i)) (bitPosition i) b)

/-- The bit at frame position `i`. -/
def frameBit (f : Frame) (i : Fin 40) : Bool :=
  (frameGet f (byteIndex i)).getLsbD (bitPosition i)

/-- `checksum(b0, b1, b2, b3)`: four bytes added modulo 256 (43_frame_validator.md R111). -/
def checksum (f : Frame) : Byte := f.b0 + f.b1 + f.b2 + f.b3

/-- The field of a time register as a word, zero-extended (10_state.md R27). -/
def ticksWord (t : Ticks) : Word := t.setWidth 32

/-- The field of a word written to a time register: bits 23:0 (10_state.md R27). -/
def wordTicks (v : Word) : Ticks := v.setWidth 24

/-- `CFG` as read (45_host_interface.md R138). -/
def cfgWord (s : State) : Word := 0#30 ++ levelBit s.startLevel ++ BitVec.ofBool s.autoRetry

/-- `DATA0` as read: the first byte most significant (10_state.md R23). -/
def data0Word (s : State) : Word := s.d.b0 ++ s.d.b1 ++ s.d.b2 ++ s.d.b3

/-- `DATA1` as read (10_state.md R23). -/
def data1Word (s : State) : Word := s.d.b4.setWidth 32

/-- `READING` as read: humidity byte, temperature byte (10_state.md R23, 43_frame_validator.md R113). -/
def readingWord (s : State) : Word := 0#16 ++ s.d.b0 ++ s.d.b2

/-- `CHK` as read (10_state.md R23). -/
def chkWord (s : State) : Word := 0#16 ++ s.chkCalc ++ s.chkRecv

end Sys2Proof.Machine
end

