-- ==== Sys2Proof/Machine/Flags.lean ====
section
/-! DEFINITION. Flags and status: the comparisons that make them, the words that show them, the interrupt output. -/

namespace Sys2Proof.Machine

/-- `classify(d, THRESH)`: 1 exactly when `d > THRESH`, an unsigned comparison of values (42_bit_sampler.md R103). -/
def classify (d : Word) (thresh : Ticks) : Bool := decide (thresh.toNat < d.toNat)

/-- `busy = (pc != IDLE)` (45_host_interface.md R135). -/
def busy (s : State) : Bool := decide (s.pc ≠ .idle)

/-- `STATUS` as read (10_state.md R21, 45_host_interface.md R135). -/
def statusWord (s : State) : Word :=
  0#11 ++ levelBit s.lineOut ++ BitVec.ofBool s.lineOe ++ 0#1 ++ BitVec.ofNat 6 s.bitIdx.val ++ 0#1 ++
    reasonCode s.reason ++ phaseCode s.pc ++ rstateCode s.rstate ++ BitVec.ofBool s.rvalid ++ BitVec.ofBool (busy s)

/-- `IFLAG` as read (45_host_interface.md R136). -/
def iflagWord (s : State) : Word := 0#30 ++ BitVec.ofBool s.failIf ++ BitVec.ofBool s.okIf

/-- `IEN` as read (45_host_interface.md R137). -/
def ienWord (s : State) : Word := 0#30 ++ BitVec.ofBool s.failIe ++ BitVec.ofBool s.okIe

/-- The interrupt output, a level computed from the state (60_exceptions.md R165). -/
def irq (s : State) : Bool := (s.okIf && s.okIe) || (s.failIf && s.failIe)

end Sys2Proof.Machine
end

