-- ==== Sys2Proof/Syntax.lean ====
section
/-! DEFINITION. The operations of the block, one constructor per row of spec/opcode_table.json (30_encoding.md R74):
the phases a tick performs, the host's commands, the host's register accesses, the wire symbols. -/

namespace Sys2Proof

/-- What a host access does to the register it selects (45_host_interface.md R130, R131). -/
inductive Access where
  | read
  | write (v : Word)
  deriving DecidableEq, Repr

/-- The operations. The row of each constructor is in LAWS.json. -/
inductive Instr where
  /-- PHASE rows: the rule the engine performs at a tick; the sample is `State.lineIn`. -/
  | idle
  | startA
  | startB
  | settle
  | ackA
  | ackB
  | ackC
  | bitStart
  | bitMeasure
  | bitEnd
  | validate
  | backoff
  /-- Phase codes 12 to 15: `low` is the code's two low bits (30_encoding.md R70). -/
  | phaseReserved (low : BitVec 2)
  /-- `CMD` written with bit 0 set; `rest` is bits 31:1, ignored (30_encoding.md R68). -/
  | start (rest : BitVec 31)
  /-- `CMD` written with bits 1:0 = 0b10; `rest` is bits 31:2, ignored. -/
  | ack (rest : BitVec 30)
  /-- `CMD` written with bits 1:0 = 0b00; `rest` is bits 31:2, ignored. -/
  | nop (rest : BitVec 30)
  /-- A read of `CMD`; a write of `CMD` is one of the three commands (20_memory.md R41). -/
  | cmd
  | status (a : Access)
  | iflag (a : Access)
  | ien (a : Access)
  | cfg (a : Access)
  | thresh (a : Access)
  | tStartA (a : Access)
  | tStartB (a : Access)
  | tSettle (a : Access)
  | tAck (a : Access)
  | tBitStart (a : Access)
  | tMeasure (a : Access)
  | tBitEnd (a : Access)
  | tBackoff (a : Access)
  | data0 (a : Access)
  | data1 (a : Access)
  | reading (a : Access)
  | chk (a : Access)
  | elapsed (a : Access)
  /-- Offset 0x4C. -/
  | reserved4C (a : Access)
  /-- Offsets 0x50 to 0x5C; `slot` is offset bits 3:2. -/
  | reserved50 (slot : BitVec 2) (a : Access)
  /-- Offsets 0x60 to 0x7C; `slot` is offset bits 4:2. -/
  | reserved60 (slot : BitVec 3) (a : Access)
  /-- Offsets 0x80 to 0xFC; `slot` is offset bits 6:2. -/
  | reserved80 (slot : BitVec 5) (a : Access)
  /-- The sensor sends a symbol meant as a 0: `gap` Low samples, `width` High samples, then the Low that ends it
  (30_encoding.md R62; log 7). -/
  | bit0 (gap width : Nat)
  /-- The sensor sends a symbol meant as a 1 (30_encoding.md R62; log 7). -/
  | bit1 (gap width : Nat)
  deriving DecidableEq, Repr

end Sys2Proof
end

