-- ==== Sys2Proof/Machine/Ops.lean ====
section
/-! DEFINITION. The shared operations: WAIT and HOLD, the three actions that begin and end an attempt (`fail` is the
block's one exception entry), register reads and writes, reset. -/

namespace Sys2Proof.Machine

/-- The result of one tick of WAIT (40_levelwaiter.md R80). -/
inductive WaitResult where
  | done (e : Word)
  | timeout
  | continue
  deriving DecidableEq, Repr

/-- The result of one tick of HOLD (40_levelwaiter.md R81). -/
inductive HoldResult where
  | expired
  | continue
  deriving DecidableEq, Repr

/-- `WAIT(target, timeout)`'s result: the level test first, then the strict timeout test (40_levelwaiter.md R80). -/
def waitResult (target : Level) (timeout : Ticks) (line : Level) (elapsed : Word) : WaitResult :=
  if line = target then .done elapsed
  else if timeout.toNat < elapsed.toNat then .timeout
  else .continue

/-- `HOLD(T)`'s result (40_levelwaiter.md R81). -/
def holdResult (t : Ticks) (elapsed : Word) : HoldResult :=
  if t.toNat ≤ (elapsed + 1#32).toNat then .expired else .continue

/-- `elapsed <- elapsed + 1`, a 32-bit add (00_scope.md R9). -/
def countTick (s : State) : State := { s with elapsed := s.elapsed + 1#32 }

/-- `begin_attempt()` (44_retry_controller.md R116). -/
def beginAttempt (s : State) : State :=
  { s with
    x := Frame.zero
    d := Frame.zero
    chkCalc := 0#8
    chkRecv := 0#8
    reason := .none
    rvalid := false
    bitIdx := 0
    elapsed := 0#32
    lineOut := s.startLevel
    lineOe := true
    rstate := .acquiring
    pc := .startA }

/-- `succeed()` (44_retry_controller.md R117). -/
def succeed (s : State) : State :=
  { s with
    okIf := true
    rstate := .success
    x := Frame.zero
    bitIdx := 0
    elapsed := 0#32
    pc := .idle }

/-- `Fail(r)`, the block's exception entry: what it saves, what it changes, where control goes
(44_retry_controller.md R118, 60_exceptions.md R167). There is no return from it (R168): the machine goes on by
`beginAttempt`. -/
def fail (r : Reason) (s : State) : State :=
  { s with
    reason := r
    failIf := true
    rstate := .failure
    x := Frame.zero
    bitIdx := 0
    elapsed := 0#32
    lineOe := false
    pc := if s.autoRetry then .backoff else .idle }

/-- One tick of a wait phase: on `Done(e)` the phase's own effect, on `Timeout` `Fail(r)`, on `Continue` only the count
(40_levelwaiter.md R80, R85). -/
def waitPhase (target : Level) (timeout : Ticks) (r : Reason) (onDone : Word → State → State) (s : State) : State :=
  match waitResult target timeout s.lineIn s.elapsed with
  | .done e => onDone e s
  | .timeout => fail r s
  | .continue => countTick s

/-- One tick of a hold phase: at expiry `elapsed` is 0 and the phase's own effect follows; otherwise only the count
(40_levelwaiter.md R81, R85). -/
def holdPhase (t : Ticks) (onExpired : State → State) (s : State) : State :=
  match holdResult t s.elapsed with
  | .expired => onExpired { s with elapsed := 0#32 }
  | .continue => countTick s

/-- Hand a read's value to the host; the block's own state does not change (20_memory.md R44; log 4). -/
def answerRead (v : Word) (s : State) : State := { s with readData := v }

/-- One host access to one register: a read gives the register's word, a write has the register's own effect
(45_host_interface.md R130, R131). -/
def accessRegister (view : State → Word) (store : Word → State → State) (a : Access) (s : State) : State :=
  match a with
  | .read => answerRead (view s) s
  | .write v => store v s

/-- A write that is ignored (20_memory.md R46; 45_host_interface.md R135, R148, R149). -/
def ignoreWrite (_ : Word) (s : State) : State := s

/-- A configuration write: the store while `pc = IDLE`, ignored in full otherwise (20_memory.md R47). -/
def storeWhenIdle (store : Word → State → State) (v : Word) (s : State) : State :=
  if s.pc = .idle then store v s else s

/-- The line is sampled at `l` at this tick (00_scope.md R6). -/
def sampleLine (l : Level) (s : State) : State := { s with lineIn := l }

/-- Reset: every element of the block at its reset value (10_state.md R39, 70_reset_and_hazards.md R180, R181); the world
outside the block keeps its own (log 6). -/
def applyReset (s : State) : State :=
  { State.reset with
    lineIn := s.lineIn
    agenda := s.agenda
    freeIdx := s.freeIdx
    readData := s.readData }

end Sys2Proof.Machine
end

