-- ==== Sys2Proof/Machine/Commands.lean ====
section
/-! DEFINITION. The host's commands, the writes to `CMD` (45_host_interface.md R132 to R134). -/

namespace Sys2Proof.Machine

/-- START begins an attempt while `pc = IDLE` and is otherwise ignored (45_host_interface.md R132). -/
def startCommand (s : State) : State := if s.pc = .idle then beginAttempt s else s

/-- ACK takes a finished cycle back to Idle and is otherwise ignored (45_host_interface.md R133). -/
def ackCommand (s : State) : State :=
  if s.pc = .idle ∧ (s.rstate = .success ∨ s.rstate = .failure) then { s with rstate := .idle } else s

/-- START (45_host_interface.md R132). -/
def execStart (_rest : BitVec 31) (s : State) : Host.Outcome State Fault Refusal := .next (startCommand s)

/-- ACK (45_host_interface.md R133). -/
def execAck (_rest : BitVec 30) (s : State) : Host.Outcome State Fault Refusal := .next (ackCommand s)

/-- NOP: no state changes (45_host_interface.md R134). -/
def execNop (_rest : BitVec 30) (s : State) : Host.Outcome State Fault Refusal := .next s

/-- A read of `CMD` returns 0 (45_host_interface.md R134). -/
def execCmd (s : State) : Host.Outcome State Fault Refusal := .next (answerRead 0#32 s)

/-- The effect of a word written to `CMD`: START, then ACK, then NOP (30_encoding.md R68). -/
def commandWrite (v : Word) (s : State) : State :=
  if v.getLsbD 0 then startCommand s else if v.getLsbD 1 then ackCommand s else s

end Sys2Proof.Machine
end

