-- ==== Sys2Proof/Machine/Registers.lean ====
section
/-! DEFINITION. The host's register accesses (45_host_interface.md R135 to R149). -/

namespace Sys2Proof.Machine

/-- STATUS: read-only (45_host_interface.md R135). -/
def execStatus (a : Access) (s : State) : Host.Outcome State Fault Refusal :=
  .next (accessRegister statusWord ignoreWrite a s)

/-- The write-1-to-clear of IFLAG (45_host_interface.md R136). -/
def clearFlags (v : Word) (s : State) : State :=
  { s with okIf := s.okIf && !v.getLsbD 0, failIf := s.failIf && !v.getLsbD 1 }

/-- IFLAG: read, or write 1 to clear, at any time (45_host_interface.md R136). -/
def execIflag (a : Access) (s : State) : Host.Outcome State Fault Refusal :=
  .next (accessRegister iflagWord clearFlags a s)

/-- The store of IEN (45_host_interface.md R137). -/
def storeIen (v : Word) (s : State) : State := { s with okIe := v.getLsbD 0, failIe := v.getLsbD 1 }

/-- IEN: read or write, at any time (45_host_interface.md R137). -/
def execIen (a : Access) (s : State) : Host.Outcome State Fault Refusal :=
  .next (accessRegister ienWord storeIen a s)

/-- The store of CFG (45_host_interface.md R138). -/
def storeCfg (v : Word) (s : State) : State :=
  { s with autoRetry := v.getLsbD 0, startLevel := bitLevel (v.getLsbD 1) }

/-- CFG: a write is ignored while busy (45_host_interface.md R138). -/
def execCfg (a : Access) (s : State) : Host.Outcome State Fault Refusal :=
  .next (accessRegister cfgWord (storeWhenIdle storeCfg) a s)

/-- THRESH: a write is ignored while busy (45_host_interface.md R139). -/
def execThresh (a : Access) (s : State) : Host.Outcome State Fault Refusal :=
  .next (accessRegister (fun t => ticksWord t.thresh) (storeWhenIdle fun v t => { t with thresh := wordTicks v }) a s)

/-- T_START_A: a write is ignored while busy (45_host_interface.md R140). -/
def execTStartA (a : Access) (s : State) : Host.Outcome State Fault Refusal :=
  .next (accessRegister (fun t => ticksWord t.tStartA) (storeWhenIdle fun v t => { t with tStartA := wordTicks v }) a s)

/-- T_START_B: a write is ignored while busy (45_host_interface.md R141). -/
def execTStartB (a : Access) (s : State) : Host.Outcome State Fault Refusal :=
  .next (accessRegister (fun t => ticksWord t.tStartB) (storeWhenIdle fun v t => { t with tStartB := wordTicks v }) a s)

/-- T_SETTLE: a write is ignored while busy (45_host_interface.md R142). -/
def execTSettle (a : Access) (s : State) : Host.Outcome State Fault Refusal :=
  .next (accessRegister (fun t => ticksWord t.tSettle) (storeWhenIdle fun v t => { t with tSettle := wordTicks v }) a s)

/-- T_ACK: a write is ignored while busy (45_host_interface.md R143). -/
def execTAck (a : Access) (s : State) : Host.Outcome State Fault Refusal :=
  .next (accessRegister (fun t => ticksWord t.tAck) (storeWhenIdle fun v t => { t with tAck := wordTicks v }) a s)

/-- T_BITSTART: a write is ignored while busy (45_host_interface.md R144). -/
def execTBitStart (a : Access) (s : State) : Host.Outcome State Fault Refusal :=
  .next (accessRegister (fun t => ticksWord t.tBitStart) (storeWhenIdle fun v t => { t with tBitStart := wordTicks v }) a s)

/-- T_MEASURE: a write is ignored while busy (45_host_interface.md R145). -/
def execTMeasure (a : Access) (s : State) : Host.Outcome State Fault Refusal :=
  .next (accessRegister (fun t => ticksWord t.tMeasure) (storeWhenIdle fun v t => { t with tMeasure := wordTicks v }) a s)

/-- T_BITEND: a write is ignored while busy (45_host_interface.md R146). -/
def execTBitEnd (a : Access) (s : State) : Host.Outcome State Fault Refusal :=
  .next (accessRegister (fun t => ticksWord t.tBitEnd) (storeWhenIdle fun v t => { t with tBitEnd := wordTicks v }) a s)

/-- T_BACKOFF: a write is ignored while busy (45_host_interface.md R147). -/
def execTBackoff (a : Access) (s : State) : Host.Outcome State Fault Refusal :=
  .next (accessRegister (fun t => ticksWord t.tBackoff) (storeWhenIdle fun v t => { t with tBackoff := wordTicks v }) a s)

/-- DATA0: read-only (45_host_interface.md R148). -/
def execData0 (a : Access) (s : State) : Host.Outcome State Fault Refusal :=
  .next (accessRegister data0Word ignoreWrite a s)

/-- DATA1: read-only (45_host_interface.md R148). -/
def execData1 (a : Access) (s : State) : Host.Outcome State Fault Refusal :=
  .next (accessRegister data1Word ignoreWrite a s)

/-- READING: read-only (45_host_interface.md R148). -/
def execReading (a : Access) (s : State) : Host.Outcome State Fault Refusal :=
  .next (accessRegister readingWord ignoreWrite a s)

/-- CHK: read-only (45_host_interface.md R148). -/
def execChk (a : Access) (s : State) : Host.Outcome State Fault Refusal :=
  .next (accessRegister chkWord ignoreWrite a s)

/-- ELAPSED: read-only (45_host_interface.md R148). -/
def execElapsed (a : Access) (s : State) : Host.Outcome State Fault Refusal :=
  .next (accessRegister (fun t => t.elapsed) ignoreWrite a s)

/-- A reserved offset reads 0 and ignores writes (45_host_interface.md R149). -/
def reservedAccess (a : Access) (s : State) : State := accessRegister (fun _ => 0#32) ignoreWrite a s

def execReserved4C (a : Access) (s : State) : Host.Outcome State Fault Refusal := .next (reservedAccess a s)

def execReserved50 (_slot : BitVec 2) (a : Access) (s : State) : Host.Outcome State Fault Refusal :=
  .next (reservedAccess a s)

def execReserved60 (_slot : BitVec 3) (a : Access) (s : State) : Host.Outcome State Fault Refusal :=
  .next (reservedAccess a s)

def execReserved80 (_slot : BitVec 5) (a : Access) (s : State) : Host.Outcome State Fault Refusal :=
  .next (reservedAccess a s)

end Sys2Proof.Machine
end

