-- ==== Sys2Proof/Machine/Acquirer.lean ====
section
/-! DEFINITION. FrameAcquirer: the start signal and the acknowledgement phases (41_frame_acquirer.md). Each phase is a
function of the state (`tick…`, the rule of one tick) and the meaning of its row (`exec…`). -/

namespace Sys2Proof.Machine

/-- START_A (41_frame_acquirer.md R90). -/
def tickStartA (s : State) : State :=
  holdPhase s.tStartA (fun t => { t with lineOut := t.startLevel.opposite, pc := .startB }) s

/-- START_B (41_frame_acquirer.md R91). -/
def tickStartB (s : State) : State :=
  holdPhase s.tStartB (fun t => { t with lineOe := false, pc := .settle }) s

/-- SETTLE (41_frame_acquirer.md R92). -/
def tickSettle (s : State) : State :=
  holdPhase s.tSettle (fun t => { t with pc := .ackA }) s

/-- ACK_A: the acknowledgement level, Low (41_frame_acquirer.md R93). -/
def tickAckA (s : State) : State :=
  waitPhase .low s.tAck .sensorUnresponsive (fun _ t => { t with elapsed := 0#32, pc := .ackB }) s

/-- ACK_B: the opposite level, High (41_frame_acquirer.md R94). -/
def tickAckB (s : State) : State :=
  waitPhase .high s.tAck .sensorUnresponsive (fun _ t => { t with elapsed := 0#32, pc := .ackC }) s

/-- ACK_C: the first level again, Low (41_frame_acquirer.md R95). -/
def tickAckC (s : State) : State :=
  waitPhase .low s.tAck .sensorUnresponsive (fun _ t => { t with elapsed := 0#32, pc := .bitStart }) s

def execStartA (s : State) : Host.Outcome State Fault Refusal := .next (tickStartA s)

def execStartB (s : State) : Host.Outcome State Fault Refusal := .next (tickStartB s)

def execSettle (s : State) : Host.Outcome State Fault Refusal := .next (tickSettle s)

def execAckA (s : State) : Host.Outcome State Fault Refusal := .next (tickAckA s)

def execAckB (s : State) : Host.Outcome State Fault Refusal := .next (tickAckB s)

def execAckC (s : State) : Host.Outcome State Fault Refusal := .next (tickAckC s)

end Sys2Proof.Machine
end

