-- ==== Sys2Proof/Machine/Retry.lean ====
section
/-! DEFINITION. RetryController: the two phases outside an attempt, and the reserved phase codes
(44_retry_controller.md; 30_encoding.md R70). -/

namespace Sys2Proof.Machine

/-- IDLE: no state changes (44_retry_controller.md R120). -/
def tickIdle (s : State) : State := s

/-- BACKOFF: the fixed delay, then a new attempt (44_retry_controller.md R119). -/
def tickBackoff (s : State) : State := holdPhase s.tBackoff beginAttempt s

def execIdle (s : State) : Host.Outcome State Fault Refusal := .next (tickIdle s)

def execBackoff (s : State) : Host.Outcome State Fault Refusal := .next (tickBackoff s)

/-- Codes 12 to 15: "never written by any rule; unreachable from reset", and no rule gives them an effect
(30_encoding.md R70; log 9). -/
def execPhaseReserved (_low : BitVec 2) (_s : State) : Host.Outcome State Fault Refusal := .refused .reservedPhase

end Sys2Proof.Machine
end

