-- ==== Sys2Proof/Machine/Sampler.lean ====
section
/-! DEFINITION. BitSampler: the three per-bit phases (42_bit_sampler.md). -/

namespace Sys2Proof.Machine

/-- BIT_START: wait for the rise; the High sample that ends it is the first of the pulse (42_bit_sampler.md R100). -/
def tickBitStart (s : State) : State :=
  waitPhase .high s.tBitStart .bitStartTimeout (fun _ t => { t with elapsed := 1#32, pc := .bitMeasure }) s

/-- BIT_MEASURE: measure, classify, pack (42_bit_sampler.md R101). -/
def tickBitMeasure (s : State) : State :=
  waitPhase .low s.tMeasure .bitMeasureTimeout
    (fun e t => { t with x := pack t.x t.bitIdx (classify e t.thresh), elapsed := 0#32, pc := .bitEnd }) s

/-- BIT_END's effect on `Done`: the next bit, or validation after bit 39 (42_bit_sampler.md R102). -/
def endBit (s : State) : State :=
  if s.bitIdx = 39 then { s with elapsed := 0#32, pc := .validate }
  else { s with elapsed := 0#32, bitIdx := s.bitIdx + 1, pc := .bitStart }

/-- BIT_END: wait for the idle level (42_bit_sampler.md R102). -/
def tickBitEnd (s : State) : State :=
  waitPhase .low s.tBitEnd .bitEndTimeout (fun _ t => endBit t) s

def execBitStart (s : State) : Host.Outcome State Fault Refusal := .next (tickBitStart s)

def execBitMeasure (s : State) : Host.Outcome State Fault Refusal := .next (tickBitMeasure s)

def execBitEnd (s : State) : Host.Outcome State Fault Refusal := .next (tickBitEnd s)

end Sys2Proof.Machine
end

