-- ==== Sys2Proof/Machine/Validator.lean ====
section
/-! DEFINITION. FrameValidator: the VALIDATE phase (43_frame_validator.md). -/

namespace Sys2Proof.Machine

/-- The checksum pair of a validation, written on both outcomes (43_frame_validator.md R110). -/
def recordChecksums (s : State) : State := { s with chkCalc := checksum s.x, chkRecv := s.x.b4 }

/-- The validated frame becomes the result (43_frame_validator.md R110). -/
def publish (s : State) : State := { s with d := s.x, rvalid := true }

/-- VALIDATE: compute, compare, and publish or discard, in one tick (43_frame_validator.md R110). -/
def tickValidate (s : State) : State :=
  if checksum s.x = s.x.b4 then succeed (publish (recordChecksums s))
  else fail .checksumMismatch (recordChecksums s)

def execValidate (s : State) : Host.Outcome State Fault Refusal := .next (tickValidate s)

end Sys2Proof.Machine
end

