-- ==== Sys2Proof/Machine/Engine.lean ====
section
/-! DEFINITION. The engine as one function: the tick of whatever phase `pc` holds (00_scope.md R6), and a run of ticks
over a list of samples. -/

namespace Sys2Proof.Machine

/-- The rule of the phase held in `pc`. -/
def tickPhase (s : State) : State :=
  match s.pc with
  | .idle => tickIdle s
  | .startA => tickStartA s
  | .startB => tickStartB s
  | .settle => tickSettle s
  | .ackA => tickAckA s
  | .ackB => tickAckB s
  | .ackC => tickAckC s
  | .bitStart => tickBitStart s
  | .bitMeasure => tickBitMeasure s
  | .bitEnd => tickBitEnd s
  | .validate => tickValidate s
  | .backoff => tickBackoff s

/-- One tick: sample the line once, perform the phase's rule once (00_scope.md R6). -/
def engineTick (l : Level) (s : State) : State := tickPhase (sampleLine l s)

/-- Ticks over a list of samples, first one first. -/
def runSamples : List Level → State → State
  | [], s => s
  | l :: rest, s => runSamples rest (engineTick l s)

end Sys2Proof.Machine
end

