-- ==== Sys2Proof/Machine/Symbols.lean ====
section
/-! DEFINITION. The wire symbols: the sensor puts one whole data symbol on the line and the engine samples it
(30_encoding.md R62, 42_bit_sampler.md R100 to R104; log 7). -/

namespace Sys2Proof.Machine

/-- The samples of one symbol: the Low gap, the High pulse, then the two Low samples that end BIT_MEASURE and BIT_END
(30_encoding.md R62, 42_bit_sampler.md R107). -/
def symbolSamples (gap width : Nat) : List Level :=
  List.replicate gap .low ++ (List.replicate width .high ++ [.low, .low])

/-- The engine samples one symbol. -/
def receiveSymbol (gap width : Nat) (s : State) : State := runSamples (symbolSamples gap width) s

/-- BIT0: a symbol whose width is meant to be at most `THRESH`; the engine classifies by the samples alone
(42_bit_sampler.md R103). -/
def execBit0 (gap width : Nat) (s : State) : Host.Outcome State Fault Refusal := .next (receiveSymbol gap width s)

/-- BIT1: a symbol whose width is meant to be above `THRESH` (42_bit_sampler.md R103). -/
def execBit1 (gap width : Nat) (s : State) : Host.Outcome State Fault Refusal := .next (receiveSymbol gap width s)

end Sys2Proof.Machine
end

