-- ==== Sys2Proof/Machine/Dispatch.lean ====
section
/-! DEFINITION. One arm per operation. -/

namespace Sys2Proof.Machine

def exec (i : Instr) (s : State) : Host.Outcome State Fault Refusal :=
  match i with
  -- phases (30_encoding.md R65)
  | .idle => Sys2Proof.Machine.execIdle s
  | .startA => Sys2Proof.Machine.execStartA s
  | .startB => Sys2Proof.Machine.execStartB s
  | .settle => Sys2Proof.Machine.execSettle s
  | .ackA => Sys2Proof.Machine.execAckA s
  | .ackB => Sys2Proof.Machine.execAckB s
  | .ackC => Sys2Proof.Machine.execAckC s
  | .bitStart => Sys2Proof.Machine.execBitStart s
  | .bitMeasure => Sys2Proof.Machine.execBitMeasure s
  | .bitEnd => Sys2Proof.Machine.execBitEnd s
  | .validate => Sys2Proof.Machine.execValidate s
  | .backoff => Sys2Proof.Machine.execBackoff s
  | .phaseReserved low => Sys2Proof.Machine.execPhaseReserved low s
  -- commands (30_encoding.md R68)
  | .start rest => Sys2Proof.Machine.execStart rest s
  | .ack rest => Sys2Proof.Machine.execAck rest s
  | .nop rest => Sys2Proof.Machine.execNop rest s
  -- registers (20_memory.md R41)
  | .cmd => Sys2Proof.Machine.execCmd s
  | .status a => Sys2Proof.Machine.execStatus a s
  | .iflag a => Sys2Proof.Machine.execIflag a s
  | .ien a => Sys2Proof.Machine.execIen a s
  | .cfg a => Sys2Proof.Machine.execCfg a s
  | .thresh a => Sys2Proof.Machine.execThresh a s
  | .tStartA a => Sys2Proof.Machine.execTStartA a s
  | .tStartB a => Sys2Proof.Machine.execTStartB a s
  | .tSettle a => Sys2Proof.Machine.execTSettle a s
  | .tAck a => Sys2Proof.Machine.execTAck a s
  | .tBitStart a => Sys2Proof.Machine.execTBitStart a s
  | .tMeasure a => Sys2Proof.Machine.execTMeasure a s
  | .tBitEnd a => Sys2Proof.Machine.execTBitEnd a s
  | .tBackoff a => Sys2Proof.Machine.execTBackoff a s
  | .data0 a => Sys2Proof.Machine.execData0 a s
  | .data1 a => Sys2Proof.Machine.execData1 a s
  | .reading a => Sys2Proof.Machine.execReading a s
  | .chk a => Sys2Proof.Machine.execChk a s
  | .elapsed a => Sys2Proof.Machine.execElapsed a s
  | .reserved4C a => Sys2Proof.Machine.execReserved4C a s
  | .reserved50 slot a => Sys2Proof.Machine.execReserved50 slot a s
  | .reserved60 slot a => Sys2Proof.Machine.execReserved60 slot a s
  | .reserved80 slot a => Sys2Proof.Machine.execReserved80 slot a s
  -- wire symbols (30_encoding.md R62)
  | .bit0 gap width => Sys2Proof.Machine.execBit0 gap width s
  | .bit1 gap width => Sys2Proof.Machine.execBit1 gap width s

end Sys2Proof.Machine
end

