-- ==== Sys2Proof/WellFormed.lean ====
section
/-! DEFINITION. Which operations are well formed. Field widths are in the types; only the wire symbols carry a check. -/

namespace Sys2Proof

/-- A symbol of 30_encoding.md R62: its High pulse is sampled at least once ("`d` is at least 1"). No stop rests on it:
whatever the samples are, the engine samples them (log 7). -/
def symbolWellFormed (width : Nat) : Bool := decide (1 ≤ width)

/-- Well-formedness of an operation. -/
def Instr.wellFormed : Instr → Bool
  | .bit0 _ width => symbolWellFormed width
  | .bit1 _ width => symbolWellFormed width
  | .idle | .startA | .startB | .settle | .ackA | .ackB | .ackC | .bitStart | .bitMeasure | .bitEnd
  | .validate | .backoff | .phaseReserved _ | .start _ | .ack _ | .nop _ | .cmd | .status _ | .iflag _
  | .ien _ | .cfg _ | .thresh _ | .tStartA _ | .tStartB _ | .tSettle _ | .tAck _ | .tBitStart _
  | .tMeasure _ | .tBitEnd _ | .tBackoff _ | .data0 _ | .data1 _ | .reading _ | .chk _ | .elapsed _
  | .reserved4C _ | .reserved50 _ _ | .reserved60 _ _ | .reserved80 _ _ => true

end Sys2Proof
end

