-- ==== Sys2Proof/Decode.lean ====
section
/-! DEFINITION. From raw operations to Instr and back. The block fetches no instruction bytes (20_memory.md R42): what
reaches it is a phase code in `pc`, an access on the host's port, or a symbol on the wire (30_encoding.md R74). -/

namespace Sys2Proof

/-- A raw operation, before decoding, in the four formats of 30_encoding.md R74. -/
inductive OpWord where
  /-- The 4-bit value of `pc` at a tick. -/
  | phase (code : BitVec 4)
  /-- `MemRead(addr, n)`. -/
  | read (addr n : Nat)
  /-- `MemWrite(addr, n, v)`. -/
  | write (addr n : Nat) (v : Word)
  /-- A wire symbol: its `encoding` bit, Low gap and High width in samples. -/
  | symbol (bit : Bool) (gap width : Nat)
  deriving DecidableEq, Repr

/-- Why the decoder rejects a raw operation. -/
inductive DecodeError where
  /-- An access of `n != 4` bytes (20_memory.md R42). -/
  | accessWidth
  /-- An access at `addr mod 4 != 0` (20_memory.md R42). -/
  | accessMisaligned
  /-- An access at `addr > 0xFC` (20_memory.md R42). -/
  | accessOutOfRange
  deriving DecidableEq, Repr

/-- The phase of a code (30_encoding.md R65); codes 12 to 15 are reserved (R70). -/
def decodePhase (code : BitVec 4) : Instr :=
  match code.toNat with
  | 0 => .idle
  | 1 => .startA
  | 2 => .startB
  | 3 => .settle
  | 4 => .ackA
  | 5 => .ackB
  | 6 => .ackC
  | 7 => .bitStart
  | 8 => .bitMeasure
  | 9 => .bitEnd
  | 10 => .validate
  | 11 => .backoff
  | c => .phaseReserved (BitVec.ofNat 2 c)

/-- The command of a word written to `CMD`: START, then ACK, then NOP (30_encoding.md R68). -/
def decodeCmd (v : Word) : Instr :=
  if v.getLsbD 0 then .start (v.extractLsb' 1 31)
  else if v.getLsbD 1 then .ack (v.extractLsb' 2 30)
  else .nop (v.extractLsb' 2 30)

/-- An access to `CMD` (20_memory.md R41). -/
def decodeCmdAccess : Access → Instr
  | .read => .cmd
  | .write v => decodeCmd v

/-- The register a word slot selects (20_memory.md R41, 30_encoding.md R69): slot = offset / 4. -/
def decodeSlot (slot : Nat) (a : Access) : Instr :=
  match slot with
  | 0 => decodeCmdAccess a
  | 1 => .status a
  | 2 => .iflag a
  | 3 => .ien a
  | 4 => .cfg a
  | 5 => .thresh a
  | 6 => .tStartA a
  | 7 => .tStartB a
  | 8 => .tSettle a
  | 9 => .tAck a
  | 10 => .tBitStart a
  | 11 => .tMeasure a
  | 12 => .tBitEnd a
  | 13 => .tBackoff a
  | 14 => .data0 a
  | 15 => .data1 a
  | 16 => .reading a
  | 17 => .chk a
  | 18 => .elapsed a
  | 19 => .reserved4C a
  | k =>
    if k < 24 then .reserved50 (BitVec.ofNat 2 k) a
    else if k < 32 then .reserved60 (BitVec.ofNat 3 k) a
    else .reserved80 (BitVec.ofNat 5 k) a

/-- What is wrong with an access, if anything: only aligned 32-bit words at offsets 0x00 to 0xFC exist
(20_memory.md R42). -/
def accessError (addr n : Nat) : Option DecodeError :=
  if n ≠ 4 then some .accessWidth
  else if addr % 4 ≠ 0 then some .accessMisaligned
  else if 0xFC < addr then some .accessOutOfRange
  else none

/-- A host access, checked and decoded. -/
def decodeAccess (addr n : Nat) (a : Access) : Except DecodeError Instr :=
  match accessError addr n with
  | some e => .error e
  | none => .ok (decodeSlot (addr / 4) a)

/-- A wire symbol, whatever its gap and width: one too long for the engine's timeouts ends as a failure of the attempt, not
as a stop (30_encoding.md R62, R70). -/
def decodeSymbol (bit : Bool) (gap width : Nat) : Instr := if bit then .bit1 gap width else .bit0 gap width

/-- The decoder, total, rejecting by name. -/
def decode : OpWord → Except DecodeError Instr
  | .phase code => .ok (decodePhase code)
  | .read addr n => decodeAccess addr n .read
  | .write addr n v => decodeAccess addr n (.write v)
  | .symbol bit gap width => .ok (decodeSymbol bit gap width)

/-- The raw access at an offset. -/
def encodeAccess (addr : Nat) : Access → OpWord
  | .read => .read addr 4
  | .write v => .write addr 4 v

/-- The raw operation of an instruction, written from 30_encoding.md R65, R68 and 20_memory.md R41. -/
def encode : Instr → OpWord
  | .idle => .phase 0x0#4
  | .startA => .phase 0x1#4
  | .startB => .phase 0x2#4
  | .settle => .phase 0x3#4
  | .ackA => .phase 0x4#4
  | .ackB => .phase 0x5#4
  | .ackC => .phase 0x6#4
  | .bitStart => .phase 0x7#4
  | .bitMeasure => .phase 0x8#4
  | .bitEnd => .phase 0x9#4
  | .validate => .phase 0xA#4
  | .backoff => .phase 0xB#4
  | .phaseReserved low => .phase (0b11#2 ++ low)
  | .start rest => .write 0x00 4 (rest ++ 0b1#1)
  | .ack rest => .write 0x00 4 (rest ++ 0b10#2)
  | .nop rest => .write 0x00 4 (rest ++ 0b00#2)
  | .cmd => .read 0x00 4
  | .status a => encodeAccess 0x04 a
  | .iflag a => encodeAccess 0x08 a
  | .ien a => encodeAccess 0x0C a
  | .cfg a => encodeAccess 0x10 a
  | .thresh a => encodeAccess 0x14 a
  | .tStartA a => encodeAccess 0x18 a
  | .tStartB a => encodeAccess 0x1C a
  | .tSettle a => encodeAccess 0x20 a
  | .tAck a => encodeAccess 0x24 a
  | .tBitStart a => encodeAccess 0x28 a
  | .tMeasure a => encodeAccess 0x2C a
  | .tBitEnd a => encodeAccess 0x30 a
  | .tBackoff a => encodeAccess 0x34 a
  | .data0 a => encodeAccess 0x38 a
  | .data1 a => encodeAccess 0x3C a
  | .reading a => encodeAccess 0x40 a
  | .chk a => encodeAccess 0x44 a
  | .elapsed a => encodeAccess 0x48 a
  | .reserved4C a => encodeAccess 0x4C a
  | .reserved50 slot a => encodeAccess (0x50 + 4 * slot.toNat) a
  | .reserved60 slot a => encodeAccess (0x60 + 4 * slot.toNat) a
  | .reserved80 slot a => encodeAccess (0x80 + 4 * slot.toNat) a
  | .bit0 gap width => .symbol false gap width
  | .bit1 gap width => .symbol true gap width

/-- The raw operation that a number in the opcode table's numbering stands for. The table gives its four formats no
common word, so numbers of different rows coincide (log 8): 32 bits are a word written to `CMD`; 8 bits are a phase code
if below 12 and otherwise a register offset read through the port's 6-bit word index (20_memory.md R42); any other
width is a phase code in its low four bits. -/
def tableOp (nbits w : Nat) : OpWord :=
  if nbits = 32 then .write 0x00 4 (BitVec.ofNat 32 w)
  else if nbits = 8 ∧ 12 ≤ w then .read (w / 4 * 4) 4
  else .phase (BitVec.ofNat 4 w)

/-- The instruction the decoder reads from a word in the opcode table's numbering. -/
def decodeTableWord (nbits w : Nat) : Option Instr :=
  match decode (tableOp nbits w) with
  | .ok i => some i
  | .error _ => none

end Sys2Proof
end

