-- ==== Sys2Proof/Machine/Fetch.lean ====
section
/-! DEFINITION. Where the next step comes from: the agenda's first entry, or, when it lists nothing, a tick with a free
sample (log 1, log 2). -/

namespace Sys2Proof.Machine

/-- What the next step is, and the state it is performed on. -/
inductive Fetched where
  | operation (w : OpWord) (s : State)
  | reset (s : State)
  deriving DecidableEq, Repr

/-- A tick with the oracle's answer, when nothing is on the agenda (00_scope.md R7; log 2). -/
def takeFreeSample (s : State) : State :=
  { s with lineIn := Config.lineAt s.freeIdx, freeIdx := s.freeIdx + 1 }

/-- The next step. A tick performs the phase whose code `pc` holds (10_state.md R11). -/
def fetch (s : State) : Fetched :=
  match s.agenda with
  | [] => .operation (.phase (phaseCode s.pc)) (takeFreeSample s)
  | .tick l :: rest => .operation (.phase (phaseCode s.pc)) (sampleLine l { s with agenda := rest })
  | .read addr n :: rest => .operation (.read addr n) { s with agenda := rest }
  | .write addr n v :: rest => .operation (.write addr n v) { s with agenda := rest }
  | .symbol bit gap width :: rest => .operation (.symbol bit gap width) { s with agenda := rest }
  | .reset :: rest => .reset { s with agenda := rest }

/-- The refusal of an operation the decoder rejects (20_memory.md R42). -/
def refusalOf : DecodeError → Refusal
  | .accessWidth => .accessWidth
  | .accessMisaligned => .accessMisaligned
  | .accessOutOfRange => .accessOutOfRange

/-- `s` with one operation placed as its next step (log 5): a phase by its code in `pc` and a tick (no state holds a
reserved code), an access or a symbol as the agenda's first entry. -/
def placeOperation (w : OpWord) (s : State) : State :=
  match w with
  | .phase code =>
    match phaseOfCode code with
    | some p => { s with pc := p, agenda := .tick .low :: s.agenda }
    | none => s
  | .read addr n => { s with agenda := .read addr n :: s.agenda }
  | .write addr n v => { s with agenda := .write addr n v :: s.agenda }
  | .symbol bit gap width => { s with agenda := .symbol bit gap width :: s.agenda }

end Sys2Proof.Machine
end

