-- ==== Sys2Proof/Machine/Step.lean ====
section
/-! DEFINITION. One step of the machine: one atomic step of one agent (00_scope.md R7). -/

namespace Sys2Proof.Machine

def step (s : State) : Host.Outcome State Fault Refusal :=
  match fetch s with
  | .reset s' => .next (applyReset s')
  | .operation w s' =>
    match decode w with
    | .ok i => exec i s'
    | .error e => .refused (refusalOf e)

/-- `s` with a word of the opcode table placed as its next step (log 5, log 8). -/
def State.withFetchWord (s : State) (nbits w : Nat) : State := placeOperation (tableOp nbits w) s

end Sys2Proof.Machine
end

