-- ==== Sys2Proof/Laws/PerInstr.lean ====
section
/-! SUPPORT. Per-instruction law: decoding what `encode` writes gives the instruction back. -/

namespace Sys2Proof.Laws

/-- The decoder reads from `encode i` the instruction `i` (30_encoding.md R74), for every operand, well formed
or not. -/
def RoundTrip.Statement (i : Instr) : Prop := decode (encode i) = .ok i

namespace RoundTrip

theorem idle : Statement .idle := rfl

theorem startA : Statement .startA := rfl

theorem startB : Statement .startB := rfl

theorem settle : Statement .settle := rfl

theorem ackA : Statement .ackA := rfl

theorem ackB : Statement .ackB := rfl

theorem ackC : Statement .ackC := rfl

theorem bitStart : Statement .bitStart := rfl

theorem bitMeasure : Statement .bitMeasure := rfl

theorem bitEnd : Statement .bitEnd := rfl

theorem validate : Statement .validate := rfl

theorem backoff : Statement .backoff := rfl

theorem phaseReserved (low : BitVec 2) : Statement (.phaseReserved low) := by
  unfold Statement
  revert low
  decide

/-- The upper part of a word, above the bits that select the command. -/
theorem upper_of_append {n m : Nat} (a : BitVec n) (b : BitVec m) : (a ++ b).extractLsb' m n = a := by
  apply BitVec.eq_of_toNat_eq
  rw [BitVec.extractLsb'_toNat, BitVec.toNat_append, ← Nat.shiftLeft_add_eq_or_of_lt b.isLt, Nat.shiftRight_eq_div_pow,
    Nat.shiftLeft_eq, Nat.mul_comm, Nat.mul_add_div (Nat.two_pow_pos m), Nat.div_eq_of_lt b.isLt, Nat.add_zero,
    Nat.mod_eq_of_lt a.isLt]

/-- The bits that select the command. -/
theorem lower_of_append {n m k : Nat} (a : BitVec n) (b : BitVec m) (h : k < m) : (a ++ b).getLsbD k = b.getLsbD k := by
  rw [BitVec.getLsbD_append, if_pos h]

theorem start (rest : BitVec 31) : Statement (.start rest) := by
  have h0 : (rest ++ 0b1#1 : Word).getLsbD 0 = true := lower_of_append rest _ (by decide)
  show Except.ok (decodeCmd (rest ++ 0b1#1)) = _
  rw [decodeCmd, if_pos h0, upper_of_append]

theorem ack (rest : BitVec 30) : Statement (.ack rest) := by
  have h0 : (rest ++ 0b10#2 : Word).getLsbD 0 = false := lower_of_append rest _ (by decide)
  have h1 : (rest ++ 0b10#2 : Word).getLsbD 1 = true := lower_of_append rest _ (by decide)
  show Except.ok (decodeCmd (rest ++ 0b10#2)) = _
  rw [decodeCmd, if_neg (by rw [h0]; decide), if_pos h1, upper_of_append]

theorem nop (rest : BitVec 30) : Statement (.nop rest) := by
  have h0 : (rest ++ 0b00#2 : Word).getLsbD 0 = false := lower_of_append rest _ (by decide)
  have h1 : (rest ++ 0b00#2 : Word).getLsbD 1 = false := lower_of_append rest _ (by decide)
  show Except.ok (decodeCmd (rest ++ 0b00#2)) = _
  rw [decodeCmd, if_neg (by rw [h0]; decide), if_neg (by rw [h1]; decide), upper_of_append]

theorem cmd : Statement .cmd := rfl

theorem status (a : Access) : Statement (.status a) := by cases a <;> rfl

theorem iflag (a : Access) : Statement (.iflag a) := by cases a <;> rfl

theorem ien (a : Access) : Statement (.ien a) := by cases a <;> rfl

theorem cfg (a : Access) : Statement (.cfg a) := by cases a <;> rfl

theorem thresh (a : Access) : Statement (.thresh a) := by cases a <;> rfl

theorem tStartA (a : Access) : Statement (.tStartA a) := by cases a <;> rfl

theorem tStartB (a : Access) : Statement (.tStartB a) := by cases a <;> rfl

theorem tSettle (a : Access) : Statement (.tSettle a) := by cases a <;> rfl

theorem tAck (a : Access) : Statement (.tAck a) := by cases a <;> rfl

theorem tBitStart (a : Access) : Statement (.tBitStart a) := by cases a <;> rfl

theorem tMeasure (a : Access) : Statement (.tMeasure a) := by cases a <;> rfl

theorem tBitEnd (a : Access) : Statement (.tBitEnd a) := by cases a <;> rfl

theorem tBackoff (a : Access) : Statement (.tBackoff a) := by cases a <;> rfl

theorem data0 (a : Access) : Statement (.data0 a) := by cases a <;> rfl

theorem data1 (a : Access) : Statement (.data1 a) := by cases a <;> rfl

theorem reading (a : Access) : Statement (.reading a) := by cases a <;> rfl

theorem chk (a : Access) : Statement (.chk a) := by cases a <;> rfl

theorem elapsed (a : Access) : Statement (.elapsed a) := by cases a <;> rfl

theorem reserved4C (a : Access) : Statement (.reserved4C a) := by cases a <;> rfl

theorem reserved50 (slot : BitVec 2) (a : Access) : Statement (.reserved50 slot a) := by
  obtain ⟨k, hk, rfl⟩ : ∃ k, k < 4 ∧ slot = BitVec.ofNat 2 k := ⟨slot.toNat, slot.isLt, by simp⟩
  cases a <;> interval_cases k <;> rfl

theorem reserved60 (slot : BitVec 3) (a : Access) : Statement (.reserved60 slot a) := by
  obtain ⟨k, hk, rfl⟩ : ∃ k, k < 8 ∧ slot = BitVec.ofNat 3 k := ⟨slot.toNat, slot.isLt, by simp⟩
  cases a <;> interval_cases k <;> rfl

theorem reserved80 (slot : BitVec 5) (a : Access) : Statement (.reserved80 slot a) := by
  obtain ⟨k, hk, rfl⟩ : ∃ k, k < 32 ∧ slot = BitVec.ofNat 5 k := ⟨slot.toNat, slot.isLt, by simp⟩
  cases a <;> interval_cases k <;> rfl

theorem bit0 (gap width : Nat) : Statement (.bit0 gap width) := rfl

theorem bit1 (gap width : Nat) : Statement (.bit1 gap width) := rfl

end RoundTrip

end Sys2Proof.Laws
end

