-- ==== Sys2Proof/Machine/RegisterMap.lean ====
section
/-! DEFINITION. The register map as two functions of the byte offset. The meanings do not call them: statements say that
a step on an access does what they say. -/

namespace Sys2Proof.Machine

/-- The register map as one function: the word a `MemRead` at an aligned offset returns (20_memory.md R41,
45_host_interface.md R130). Statements and tests read registers through it. -/
def readRegister (addr : Nat) (s : State) : Word :=
  match addr with
  | 0x04 => statusWord s
  | 0x08 => iflagWord s
  | 0x0C => ienWord s
  | 0x10 => cfgWord s
  | 0x14 => ticksWord s.thresh
  | 0x18 => ticksWord s.tStartA
  | 0x1C => ticksWord s.tStartB
  | 0x20 => ticksWord s.tSettle
  | 0x24 => ticksWord s.tAck
  | 0x28 => ticksWord s.tBitStart
  | 0x2C => ticksWord s.tMeasure
  | 0x30 => ticksWord s.tBitEnd
  | 0x34 => ticksWord s.tBackoff
  | 0x38 => data0Word s
  | 0x3C => data1Word s
  | 0x40 => readingWord s
  | 0x44 => chkWord s
  | 0x48 => s.elapsed
  | _ => 0#32

/-- The effect of a `MemWrite` at an aligned offset (20_memory.md R41, 45_host_interface.md R131): a command, the
write-1-to-clear, a store, a store while idle, or nothing. -/
def writeRegister (addr : Nat) (v : Word) : State → State :=
  match addr with
  | 0x00 => commandWrite v
  | 0x08 => clearFlags v
  | 0x0C => storeIen v
  | 0x10 => storeWhenIdle storeCfg v
  | 0x14 => storeWhenIdle (fun w t => { t with thresh := wordTicks w }) v
  | 0x18 => storeWhenIdle (fun w t => { t with tStartA := wordTicks w }) v
  | 0x1C => storeWhenIdle (fun w t => { t with tStartB := wordTicks w }) v
  | 0x20 => storeWhenIdle (fun w t => { t with tSettle := wordTicks w }) v
  | 0x24 => storeWhenIdle (fun w t => { t with tAck := wordTicks w }) v
  | 0x28 => storeWhenIdle (fun w t => { t with tBitStart := wordTicks w }) v
  | 0x2C => storeWhenIdle (fun w t => { t with tMeasure := wordTicks w }) v
  | 0x30 => storeWhenIdle (fun w t => { t with tBitEnd := wordTicks w }) v
  | 0x34 => storeWhenIdle (fun w t => { t with tBackoff := wordTicks w }) v
  | _ => ignoreWrite v

end Sys2Proof.Machine
end

