-- ==== Sys2Proof/Safety.lean ====
section
/-! DEFINITION. What holds of the block in every state a run reaches: the thirteen items of 10_state.md R37 and the
attempt-in-progress facts of 45_host_interface.md R148 (`Inv`). Bounds R37 gives that the types already give
(`pc <= 11`, `bit_idx <= 39`, `reason <= 5`, the 24-bit fields) need no clause. -/

namespace Sys2Proof.Machine

/-- The block's own part of a state: the model's own four fields (logs 1 to 4) blanked. -/
def State.block (s : State) : State :=
  { s with lineIn := .low, agenda := [], freeIdx := 0, readData := 0#32 }

/-- What an attempt's outcome can show: the block's own part less the flags and enables, which no attempt reads
(00_scope.md R8). -/
def State.attemptView (s : State) : State :=
  { s.block with okIf := false, failIf := false, okIe := false, failIe := false }

/-- The configuration registers of a state (10_state.md R26 to R36), everything else as after reset. -/
def State.configView (s : State) : State :=
  { State.reset with
    autoRetry := s.autoRetry
    startLevel := s.startLevel
    thresh := s.thresh
    tStartA := s.tStartA
    tStartB := s.tStartB
    tSettle := s.tSettle
    tAck := s.tAck
    tBitStart := s.tBitStart
    tMeasure := s.tMeasure
    tBitEnd := s.tBitEnd
    tBackoff := s.tBackoff }

/-- A state less its configuration registers: they as after reset. -/
def State.withoutConfig (s : State) : State :=
  { s with
    autoRetry := State.reset.autoRetry
    startLevel := State.reset.startLevel
    thresh := State.reset.thresh
    tStartA := State.reset.tStartA
    tStartB := State.reset.tStartB
    tSettle := State.reset.tSettle
    tAck := State.reset.tAck
    tBitStart := State.reset.tBitStart
    tMeasure := State.reset.tMeasure
    tBitEnd := State.reset.tBitEnd
    tBackoff := State.reset.tBackoff }

/-- Two states hold the same configuration registers. -/
abbrev SameConfig (s t : State) : Prop := s.configView = t.configView

/-- The accesses the register port can carry: aligned 32-bit words inside 0x00 to 0xFC (20_memory.md R42). -/
abbrev portAccess (addr n : Nat) : Prop := n = 4 ∧ addr % 4 = 0 ∧ addr ≤ 0xFC

/-- The agenda entries that have a meaning: every tick, reset and symbol, every access the port can carry. -/
def acceptedEvent : Event → Prop
  | .tick _ => True
  | .reset => True
  | .read addr n => portAccess addr n
  | .write addr n _ => portAccess addr n
  | .symbol _ _ _ => True

/-- The phases that sample the line (10_state.md R25). -/
abbrev waitPhaseOf (p : Phase) : Prop :=
  p = .ackA ∨ p = .ackB ∨ p = .ackC ∨ p = .bitStart ∨ p = .bitMeasure ∨ p = .bitEnd

/-- The transitions of `pc` other than reset (44_retry_controller.md R122): from, to. -/
def phaseEdge : Phase → Phase → Prop
  | .idle, q => q = .idle ∨ q = .startA
  | .startA, q => q = .startA ∨ q = .startB
  | .startB, q => q = .startB ∨ q = .settle
  | .settle, q => q = .settle ∨ q = .ackA
  | .ackA, q => q = .ackA ∨ q = .ackB ∨ q = .idle ∨ q = .backoff
  | .ackB, q => q = .ackB ∨ q = .ackC ∨ q = .idle ∨ q = .backoff
  | .ackC, q => q = .ackC ∨ q = .bitStart ∨ q = .idle ∨ q = .backoff
  | .bitStart, q => q = .bitStart ∨ q = .bitMeasure ∨ q = .idle ∨ q = .backoff
  | .bitMeasure, q => q = .bitMeasure ∨ q = .bitEnd ∨ q = .idle ∨ q = .backoff
  | .bitEnd, q => q = .bitEnd ∨ q = .bitStart ∨ q = .validate ∨ q = .idle ∨ q = .backoff
  | .validate, q => q = .idle ∨ q = .backoff
  | .backoff, q => q = .backoff ∨ q = .startA

/-- The bound on the ticks of one attempt (70_reset_and_hazards.md R195). -/
def attemptBound (s : State) : Nat :=
  max s.tStartA.toNat 1 + max s.tStartB.toNat 1 + max s.tSettle.toNat 1 + 3 * (s.tAck.toNat + 2) +
    40 * ((s.tBitStart.toNat + 2) + (s.tMeasure.toNat + 1) + (s.tBitEnd.toNat + 2)) + 1

/-- The engine samples a list of symbols, each a Low gap and a High width. -/
def receiveSymbols (symbols : List (Nat × Nat)) (s : State) : State :=
  symbols.foldl (fun t p => receiveSymbol p.1 p.2 t) s

/-- The sample `line` holds after a run of samples: the last of them, or the old one if there was none. -/
def lastSample (ls : List Level) (l : Level) : Level := (ls.getLast?).getD l

/-- `s` after a run of ticks that only count: `elapsed` has grown by one per sample, nothing else of the block changed. -/
def counted (ls : List Level) (s : State) : State :=
  { s with elapsed := s.elapsed + BitVec.ofNat 32 ls.length, lineIn := lastSample ls s.lineIn }

/-- What 40_levelwaiter.md R81 says of a phase `p` that performs `HOLD(time)` and ends with `expired`: each tick, and the
length from its entry (`elapsed = 0`), exactly `max(time, 1)` ticks, whatever is sampled. The bound on `elapsed` is the
invariant of 40_levelwaiter.md R82 (`InvElapsed`): no state a run reaches is left out (log 13). `expired` is applied to
the state in which HOLD has written `elapsed <- 0`. -/
def HoldPhase (i : Instr) (p : Phase) (time : State → Ticks) (expired : State → State) : Prop :=
  (∀ s : State, s.pc = p → s.elapsed.toNat ≤ 2 ^ 24 →
    exec i s = .next (if (time s).toNat ≤ s.elapsed.toNat + 1 then expired { s with elapsed := 0#32 }
      else { s with elapsed := s.elapsed + 1#32 })) ∧
  (∀ (s : State) (ls : List Level), s.pc = p → s.elapsed = 0#32 → ls.length < max (time s).toNat 1 →
    runSamples ls s = counted ls s) ∧
  (∀ (s : State) (ls : List Level), s.pc = p → s.elapsed = 0#32 → ls.length = max (time s).toNat 1 →
    runSamples ls s = expired { s with elapsed := 0#32, lineIn := lastSample ls s.lineIn })

/-- What 40_levelwaiter.md R80 says of a phase `p` that performs `WAIT(target, timeout)`, entered with `elapsed = entry`,
that goes on with `done` and fails with `r`: each tick; from the entry the samples off the target it counts through; the
sample at the target that ends it after any number of those; the sample off the target at which it times out. -/
def WaitPhase (i : Instr) (p : Phase) (target : Level) (timeout : State → Ticks) (entry : Nat) (r : Reason)
    (done : Word → State → State) : Prop :=
  (∀ s : State, s.pc = p →
    exec i s = .next (if s.lineIn = target then done s.elapsed s
      else if (timeout s).toNat < s.elapsed.toNat then fail r s
      else { s with elapsed := s.elapsed + 1#32 })) ∧
  (∀ (s : State) (ls : List Level), s.pc = p → s.elapsed.toNat = entry → (∀ l ∈ ls, l ≠ target) →
    entry + ls.length ≤ (timeout s).toNat + 1 →
    runSamples ls s = counted ls s ∧
      runSamples (ls ++ [target]) s =
        done (BitVec.ofNat 32 (entry + ls.length)) { counted ls s with lineIn := target }) ∧
  (∀ (s : State) (ls : List Level), s.pc = p → s.elapsed.toNat = entry → (∀ l ∈ ls, l ≠ target) →
    entry + ls.length = (timeout s).toNat + 2 →
    runSamples ls s = fail r { s with lineIn := target.opposite })

/-- The reserved bits of the register at an offset: every bit the layouts of 10_state.md R19 to R27 give to no field
(`CMD` and the reserved offsets have no field). -/
def reservedBits (addr : Nat) : Word :=
  match addr with
  | 0x04 => 0xFFE40800#32
  | 0x08 => 0xFFFFFFFC#32
  | 0x0C => 0xFFFFFFFC#32
  | 0x10 => 0xFFFFFFFC#32
  | 0x14 => 0xFF000000#32
  | 0x18 => 0xFF000000#32
  | 0x1C => 0xFF000000#32
  | 0x20 => 0xFF000000#32
  | 0x24 => 0xFF000000#32
  | 0x28 => 0xFF000000#32
  | 0x2C => 0xFF000000#32
  | 0x30 => 0xFF000000#32
  | 0x34 => 0xFF000000#32
  | 0x38 => 0#32
  | 0x3C => 0xFFFFFF00#32
  | 0x40 => 0xFFFF0000#32
  | 0x44 => 0xFFFF0000#32
  | 0x48 => 0#32
  | _ => 0xFFFFFFFF#32

/-- The samples of a list of agenda entries that are ticks, first one first. -/
def tickSamples (es : List Event) : List Level :=
  es.filterMap fun e =>
    match e with
    | .tick l => some l
    | .read _ _ => none
    | .write _ _ _ => none
    | .symbol _ _ _ => none
    | .reset => none

/-- The agenda entries of the host: the accesses the port can carry. -/
def hostAccess : Event → Prop
  | .read addr n => portAccess addr n
  | .write addr n _ => portAccess addr n
  | .tick _ => False
  | .symbol _ _ _ => False
  | .reset => False

/-- The frame whose position `i` is 1 exactly when the `i`-th width is above the threshold. -/
def FrameOfWidths (thresh : Ticks) (symbols : List (Nat × Nat)) (f : Frame) : Prop :=
  ∀ (i : Fin 40) (p : Nat × Nat), symbols[i.val]? = some p → frameBit f i = decide (thresh.toNat < p.2)

/-- The phases of an attempt (10_state.md R37 item 4). -/
abbrev attemptPhase (p : Phase) : Prop := p ≠ .idle ∧ p ≠ .backoff

/-- The phases in which the working frame may hold bits (10_state.md R37 item 11). -/
abbrev samplingPhase (p : Phase) : Prop :=
  p = .bitStart ∨ p = .bitMeasure ∨ p = .bitEnd ∨ p = .validate

/-- R37 item 1 (the rest of it is in the types); 40_levelwaiter.md R82. -/
abbrev InvElapsed (s : State) : Prop := s.elapsed.toNat ≤ 2 ^ 24

/-- R37 item 2. -/
abbrev InvIdle (s : State) : Prop :=
  s.pc = .idle →
    s.elapsed = 0#32 ∧ s.bitIdx = 0 ∧ s.x = Frame.zero ∧ s.lineOe = false ∧ s.rstate ≠ .acquiring

/-- R37 item 3. -/
abbrev InvDrive (s : State) : Prop := s.lineOe = true ↔ (s.pc = .startA ∨ s.pc = .startB)

/-- R37 item 4. -/
abbrev InvAcquiring (s : State) : Prop := s.rstate = .acquiring ↔ attemptPhase s.pc

/-- R37 item 5. -/
abbrev InvBackoff (s : State) : Prop :=
  s.pc = .backoff →
    s.rstate = .failure ∧ s.reason ≠ .none ∧ s.autoRetry = true ∧ s.x = Frame.zero ∧ s.bitIdx = 0

/-- R37 item 6. -/
abbrev InvSuccess (s : State) : Prop :=
  s.rstate = .success → s.pc = .idle ∧ s.rvalid = true ∧ s.reason = .none

/-- R37 item 7. -/
abbrev InvFailure (s : State) : Prop :=
  s.rstate = .failure → s.reason ≠ .none ∧ s.rvalid = false ∧ s.d = Frame.zero

/-- R37 item 8. -/
abbrev InvValid (s : State) : Prop :=
  s.rvalid = true →
    s.pc = .idle ∧ s.reason = .none ∧ s.d.b4 = checksum s.d ∧ s.chkCalc = s.d.b4 ∧ s.chkRecv = s.d.b4

/-- R37 item 9. -/
abbrev InvNotValid (s : State) : Prop := s.rvalid = false → s.d = Frame.zero

/-- R37 item 10. -/
abbrev InvReason (s : State) : Prop :=
  (s.reason = .checksumMismatch → s.chkCalc ≠ s.chkRecv) ∧
    (s.reason = .sensorUnresponsive ∨ s.reason = .bitStartTimeout ∨ s.reason = .bitMeasureTimeout ∨
        s.reason = .bitEndTimeout →
      s.chkCalc = 0#8 ∧ s.chkRecv = 0#8)

/-- R37 item 11. -/
abbrev InvIndex (s : State) : Prop :=
  (s.bitIdx ≠ 0 → samplingPhase s.pc) ∧ (s.pc = .validate → s.bitIdx = 39 ∧ s.elapsed = 0#32)

/-- R37 item 12. -/
abbrev InvFrame (s : State) : Prop :=
  (∀ i : Fin 40, s.bitIdx < i → frameBit s.x i = false) ∧
    (s.pc = .bitStart ∨ s.pc = .bitMeasure → frameBit s.x s.bitIdx = false) ∧
    (¬ samplingPhase s.pc → s.x = Frame.zero)

/-- While an attempt runs nothing of a result or a reason stands (45_host_interface.md R148, 44_retry_controller.md R116,
R117: "`reason` is not written; it is 0 since `begin_attempt()`"). -/
abbrev InvClean (s : State) : Prop :=
  s.rstate = .acquiring → s.reason = .none ∧ s.chkCalc = 0#8 ∧ s.chkRecv = 0#8

/-- Which level the start signal drives: the first level in `START_A`, its opposite in `START_B`
(41_frame_acquirer.md R90, R91, "On entry"). -/
abbrev InvLevel (s : State) : Prop :=
  (s.pc = .startA → s.lineOut = s.startLevel) ∧ (s.pc = .startB → s.lineOut = s.startLevel.opposite)

/-- The invariants of 10_state.md R37, with `InvClean`, which they need to be kept by every step, and `InvLevel`. -/
structure Inv (s : State) : Prop where
  elapsed : InvElapsed s
  idle : InvIdle s
  drive : InvDrive s
  acquiring : InvAcquiring s
  backoff : InvBackoff s
  success : InvSuccess s
  failure : InvFailure s
  valid : InvValid s
  notValid : InvNotValid s
  reason : InvReason s
  index : InvIndex s
  frame : InvFrame s
  clean : InvClean s
  level : InvLevel s

end Sys2Proof.Machine
end

