-- ==== Sys2Proof/Certificates/Slice0/Obligations.lean ====
section
/-! DEFINITION. The statements for the provers, in the order of OBLIGATIONS.json. -/

open Sys2Proof Sys2Proof.Machine

/-! Reset. -/

/-- 10_state.md R39: the reset value of every element of the block, and of the two derived outputs;
70_reset_and_hazards.md R181: a reset step gives the block those values whatever it held before. -/
def Obligations.ResetLeavesTableValues : Prop :=
  (∀ (s : State) (rest : List Event), s.agenda = .reset :: rest →
    ∃ t, step s = .next t ∧ t.block = State.reset.block) ∧
  State.reset.pc = .idle ∧ State.reset.bitIdx = 0 ∧ State.reset.elapsed = 0#32 ∧
    State.reset.x = ⟨0#8, 0#8, 0#8, 0#8, 0#8⟩ ∧ State.reset.d = ⟨0#8, 0#8, 0#8, 0#8, 0#8⟩ ∧
    State.reset.chkCalc = 0#8 ∧ State.reset.chkRecv = 0#8 ∧ State.reset.reason = .none ∧
    State.reset.rvalid = false ∧ State.reset.rstate = .idle ∧
    State.reset.okIf = false ∧ State.reset.failIf = false ∧ State.reset.okIe = false ∧ State.reset.failIe = false ∧
    State.reset.autoRetry = false ∧ State.reset.startLevel = .high ∧
    State.reset.thresh = 45#24 ∧ State.reset.tStartA = 50000#24 ∧ State.reset.tStartB = 20000#24 ∧
    State.reset.tSettle = 40#24 ∧ State.reset.tAck = 2000#24 ∧ State.reset.tBitStart = 1000#24 ∧
    State.reset.tMeasure = 2000#24 ∧ State.reset.tBitEnd = 1000#24 ∧ State.reset.tBackoff = 120000#24 ∧
    State.reset.lineOe = false ∧ State.reset.lineOut = .low ∧
    irq State.reset = false ∧ statusWord State.reset = 0x00000000#32

/-! Steps and decoding. -/

/-- 00_scope.md R6, R7: a step takes the first entry of the agenda off and performs its operation; with an empty agenda
it is a tick with the oracle's next sample (the agenda and the free sample are the model's: logs 1, 2). -/
def Obligations.StepRunsDecodedOperation : Prop :=
  ∀ (s : State) (rest : List Event) (i : Instr),
    (∀ l, s.agenda = .tick l :: rest → decode (.phase (phaseCode s.pc)) = .ok i →
      step s = exec i { s with agenda := rest, lineIn := l }) ∧
    (s.agenda = [] → decode (.phase (phaseCode s.pc)) = .ok i →
      step s = exec i { s with lineIn := Config.lineAt s.freeIdx, freeIdx := s.freeIdx + 1 }) ∧
    (∀ addr n, s.agenda = .read addr n :: rest → decode (.read addr n) = .ok i →
      step s = exec i { s with agenda := rest }) ∧
    (∀ addr n v, s.agenda = .write addr n v :: rest → decode (.write addr n v) = .ok i →
      step s = exec i { s with agenda := rest }) ∧
    (∀ b gap width, s.agenda = .symbol b gap width :: rest → decode (.symbol b gap width) = .ok i →
      step s = exec i { s with agenda := rest })

/-- A step completes exactly when the agenda's next entry has a meaning: every access the port can carry
(20_memory.md R42, R46), every tick and every reset. That an empty agenda is a tick (log 1) and that every symbol entry,
whatever its gap and width, is one step (log 7) is the model's choice. An access of another width, misaligned, or beyond
0xFC is refused, by a name for each, tried in that order (the names and their order are the model's: log 10). -/
def Obligations.StepCompletesExactlyOnAcceptedEntries : Prop :=
  (∀ s : State, (∃ t, step s = .next t) ↔ (∀ e rest, s.agenda = e :: rest → acceptedEvent e)) ∧
  ∀ (s : State) (rest : List Event) (addr n : Nat) (v : Word),
    (s.agenda = .read addr n :: rest ∨ s.agenda = .write addr n v :: rest) →
      (n ≠ 4 → step s = .refused .accessWidth) ∧
      (n = 4 → addr % 4 ≠ 0 → step s = .refused .accessMisaligned) ∧
      (n = 4 → addr % 4 = 0 → 0xFC < addr → step s = .refused .accessOutOfRange)

/-- 30_encoding.md R74: the decoder reads back every operand of every operation the encoder writes, well formed or not. -/
def Obligations.DecodeOfEncodeIsIdentity : Prop := ∀ i : Instr, decode (encode i) = .ok i

/-- 30_encoding.md R74: what the decoder reads, the encoder writes back: no bit of a raw operation is dropped, and no two
raw operations decode to one. -/
def Obligations.EncodeOfDecodeIsIdentity : Prop :=
  ∀ (w : OpWord) (i : Instr), decode w = .ok i → encode i = w

/-- 30_encoding.md R65, R66: the phase and state codes, as the decoder reads them and as `STATUS` shows them. -/
def Obligations.PhaseAndStateCodes : Prop :=
  (phaseCode .idle = 0#4 ∧ phaseCode .startA = 1#4 ∧ phaseCode .startB = 2#4 ∧ phaseCode .settle = 3#4 ∧
    phaseCode .ackA = 4#4 ∧ phaseCode .ackB = 5#4 ∧ phaseCode .ackC = 6#4 ∧ phaseCode .bitStart = 7#4 ∧
    phaseCode .bitMeasure = 8#4 ∧ phaseCode .bitEnd = 9#4 ∧ phaseCode .validate = 10#4 ∧ phaseCode .backoff = 11#4) ∧
  (decode (.phase 0#4) = .ok .idle ∧ decode (.phase 1#4) = .ok .startA ∧ decode (.phase 2#4) = .ok .startB ∧
    decode (.phase 3#4) = .ok .settle ∧ decode (.phase 4#4) = .ok .ackA ∧ decode (.phase 5#4) = .ok .ackB ∧
    decode (.phase 6#4) = .ok .ackC ∧ decode (.phase 7#4) = .ok .bitStart ∧ decode (.phase 8#4) = .ok .bitMeasure ∧
    decode (.phase 9#4) = .ok .bitEnd ∧ decode (.phase 10#4) = .ok .validate ∧ decode (.phase 11#4) = .ok .backoff ∧
    ∀ c : BitVec 4, 12 ≤ c.toNat → decode (.phase c) = .ok (.phaseReserved (c.setWidth 2))) ∧
  (rstateCode .idle = 0#2 ∧ rstateCode .acquiring = 1#2 ∧ rstateCode .success = 2#2 ∧ rstateCode .failure = 3#2) ∧
  ∀ s : State, (statusWord s).extractLsb' 4 4 = phaseCode s.pc ∧ (statusWord s).extractLsb' 2 2 = rstateCode s.rstate

/-- 30_encoding.md R69 and the register map of 20_memory.md R41: which register each offset selects, for a read and for a
write; offsets 0x4C to 0xFC select nothing but the reserved rows. -/
def Obligations.OffsetSelectsRegister : Prop :=
  decode (.read 0x00 4) = .ok .cmd ∧
  ∀ a : Access,
    decode (encodeAccess 0x04 a) = .ok (.status a) ∧ decode (encodeAccess 0x08 a) = .ok (.iflag a) ∧
    decode (encodeAccess 0x0C a) = .ok (.ien a) ∧ decode (encodeAccess 0x10 a) = .ok (.cfg a) ∧
    decode (encodeAccess 0x14 a) = .ok (.thresh a) ∧ decode (encodeAccess 0x18 a) = .ok (.tStartA a) ∧
    decode (encodeAccess 0x1C a) = .ok (.tStartB a) ∧ decode (encodeAccess 0x20 a) = .ok (.tSettle a) ∧
    decode (encodeAccess 0x24 a) = .ok (.tAck a) ∧ decode (encodeAccess 0x28 a) = .ok (.tBitStart a) ∧
    decode (encodeAccess 0x2C a) = .ok (.tMeasure a) ∧ decode (encodeAccess 0x30 a) = .ok (.tBitEnd a) ∧
    decode (encodeAccess 0x34 a) = .ok (.tBackoff a) ∧ decode (encodeAccess 0x38 a) = .ok (.data0 a) ∧
    decode (encodeAccess 0x3C a) = .ok (.data1 a) ∧ decode (encodeAccess 0x40 a) = .ok (.reading a) ∧
    decode (encodeAccess 0x44 a) = .ok (.chk a) ∧ decode (encodeAccess 0x48 a) = .ok (.elapsed a) ∧
    ∀ o : BitVec 8, o &&& 0x03#8 = 0#8 →
      (o &&& 0xFC#8 = 0x4C#8 → decode (encodeAccess o.toNat a) = .ok (.reserved4C a)) ∧
      (o &&& 0xF0#8 = 0x50#8 → decode (encodeAccess o.toNat a) = .ok (.reserved50 (o.extractLsb' 2 2) a)) ∧
      (o &&& 0xE0#8 = 0x60#8 → decode (encodeAccess o.toNat a) = .ok (.reserved60 (o.extractLsb' 2 3) a)) ∧
      (o &&& 0x80#8 = 0x80#8 → decode (encodeAccess o.toNat a) = .ok (.reserved80 (o.extractLsb' 2 5) a))

/-- 30_encoding.md R68: START, ACK, NOP, in priority order, as match and mask over the word written to `CMD`. -/
def Obligations.CommandWordPriority : Prop :=
  ∀ v : Word,
    (v &&& 0x00000001#32 = 0x00000001#32 → decode (.write 0x00 4 v) = .ok (.start (v.extractLsb' 1 31))) ∧
    (v &&& 0x00000003#32 = 0x00000002#32 → decode (.write 0x00 4 v) = .ok (.ack (v.extractLsb' 2 30))) ∧
    (v &&& 0x00000003#32 = 0x00000000#32 → decode (.write 0x00 4 v) = .ok (.nop (v.extractLsb' 2 30)))

/-- Words written out from the spec's encodings, one or two of each format. -/
def Obligations.WrittenOutWordsDecode : Prop :=
  decode (.phase 0b1000#4) = .ok .bitMeasure ∧ decode (.phase 0b1110#4) = .ok (.phaseReserved 0b10#2) ∧
    decode (.write 0x00 4 0x00000003#32) = .ok (.start 1#31) ∧ decode (.write 0x00 4 0x00000006#32) = .ok (.ack 1#30) ∧
    decode (.read 0x44 4) = .ok (.chk .read) ∧ decode (.write 0x10 4 0x3#32) = .ok (.cfg (.write 0x3#32)) ∧
    decode (.read 0xFC 4) = .ok (.reserved80 0b11111#5 .read) ∧
    decode (.symbol false 48 20) = .ok (.bit0 48 20) ∧ decode (.symbol true 48 60) = .ok (.bit1 48 60)

/-- A run of tick entries is the engine over their samples, one step per tick (00_scope.md R6); a symbol entry is the ticks
of its samples. So what is stated of `runSamples` is said of the machine's own run. That the ticks stand on an agenda is
the model's choice (log 1), and so is that a symbol entry is ONE step of gap + width + 2 samples, two Low ones last
(log 7; 30_encoding.md R62 gives the line's shape and no step). -/
def Obligations.RunOfTicksIsEngineOverSamples : Prop :=
  (∀ (ls : List Level) (rest : List Event) (s : State),
    Sys2Proof.core.run ls.length { s with agenda := ls.map Event.tick ++ rest } =
      .next { runSamples ls s with agenda := rest }) ∧
  (∀ (b : Bool) (gap width : Nat) (rest : List Event) (s : State),
    step { s with agenda := .symbol b gap width :: rest } =
      Sys2Proof.core.run (gap + width + 2)
        { s with agenda := (List.replicate gap (.tick .low) ++ List.replicate width (.tick .high) ++
            [.tick .low, .tick .low]) ++ rest })

/-! The phases. -/

/-- 44_retry_controller.md R120. -/
def Obligations.IdleChangesNothing : Prop :=
  (∀ s : State, s.pc = .idle → exec .idle s = .next s) ∧
  (∀ (s : State) (ls : List Level), s.pc = .idle → runSamples ls s = { s with lineIn := lastSample ls s.lineIn }) ∧
  (∀ s t : State, step s = .next t → s.pc = .idle → t.pc ≠ .idle →
    t.pc = .startA ∧ ∃ v rest, s.agenda = .write 0x00 4 v :: rest ∧ v.getLsbD 0 = true) ∧
  (∀ s : State, Inv s → s.pc = .idle →
    s.lineOe = false ∧ s.elapsed = 0#32 ∧ s.bitIdx = 0 ∧ s.x = Frame.zero ∧
      (s.rstate = .idle ∨ s.rstate = .success ∨ s.rstate = .failure))

/-- 41_frame_acquirer.md R90: `START_A` drives `START_LEVEL` for exactly `max(T_START_A, 1)` ticks: the tick, the length, the
level in every reachable state (`Inv`), and the level tick by tick from an accepted START. -/
def Obligations.StartAHoldsFirstLevel : Prop :=
  (∀ s : State, Inv s → s.pc = .startA → s.lineOe = true ∧ s.lineOut = s.startLevel) ∧
  (∀ (s : State) (ls : List Level), s.pc = .idle →
    (ls.length < max s.tStartA.toNat 1 →
      (runSamples ls (startCommand s)).pc = .startA ∧ (runSamples ls (startCommand s)).lineOe = true ∧
        (runSamples ls (startCommand s)).lineOut = s.startLevel) ∧
    (ls.length = max s.tStartA.toNat 1 → (runSamples ls (startCommand s)).pc = .startB)) ∧
  HoldPhase .startA .startA (fun s => s.tStartA)
    (fun t => { t with lineOut := (if t.startLevel = .high then .low else .high), pc := .startB })

/-- 41_frame_acquirer.md R91: `START_B` drives the opposite level for exactly `max(T_START_B, 1)` ticks, then releases the
line: the tick, the length, the level in every reachable state (`Inv`), and the level tick by tick from an accepted
START. -/
def Obligations.StartBHoldsThenReleases : Prop :=
  (∀ s : State, Inv s → s.pc = .startB → s.lineOe = true ∧ s.lineOut = s.startLevel.opposite) ∧
  (∀ (s : State) (ls : List Level), s.pc = .idle →
    (max s.tStartA.toNat 1 ≤ ls.length → ls.length < max s.tStartA.toNat 1 + max s.tStartB.toNat 1 →
      (runSamples ls (startCommand s)).pc = .startB ∧ (runSamples ls (startCommand s)).lineOe = true ∧
        (runSamples ls (startCommand s)).lineOut = s.startLevel.opposite) ∧
    (ls.length = max s.tStartA.toNat 1 + max s.tStartB.toNat 1 →
      (runSamples ls (startCommand s)).pc = .settle ∧ (runSamples ls (startCommand s)).lineOe = false)) ∧
  HoldPhase .startB .startB (fun s => s.tStartB) (fun t => { t with lineOe := false, pc := .settle })

/-- 41_frame_acquirer.md R92: `SETTLE` lasts `max(T_SETTLE, 1)` ticks. -/
def Obligations.SettleDelays : Prop :=
  HoldPhase .settle .settle (fun s => s.tSettle) (fun t => { t with pc := .ackA })

/-- 44_retry_controller.md R119: `BACKOFF` lasts `max(T_BACKOFF, 1)` ticks and begins an attempt; the engine enters it only
by a failure under automatic retry. -/
def Obligations.BackoffRetriesAfterDelay : Prop :=
  HoldPhase .backoff .backoff (fun s => s.tBackoff)
    (fun t =>
      { t with
        x := ⟨0#8, 0#8, 0#8, 0#8, 0#8⟩
        d := ⟨0#8, 0#8, 0#8, 0#8, 0#8⟩
        chkCalc := 0#8
        chkRecv := 0#8
        reason := .none
        rvalid := false
        bitIdx := 0
        elapsed := 0#32
        lineOut := t.startLevel
        lineOe := true
        rstate := .acquiring
        pc := .startA }) ∧
  ∀ (s : State) (l : Level), s.pc ≠ .backoff → (engineTick l s).pc = .backoff →
    (engineTick l s).autoRetry = true ∧ (engineTick l s).rstate = .failure ∧ (engineTick l s).reason ≠ .none ∧
      (engineTick l s).elapsed = 0#32 ∧ (engineTick l s).lineOe = false

/-- 41_frame_acquirer.md R93. -/
def Obligations.AckARequiresLow : Prop :=
  WaitPhase .ackA .ackA .low (fun s => s.tAck) 0 .sensorUnresponsive
    (fun _ t => { t with elapsed := 0#32, pc := .ackB })

/-- 41_frame_acquirer.md R94. -/
def Obligations.AckBRequiresHigh : Prop :=
  WaitPhase .ackB .ackB .high (fun s => s.tAck) 0 .sensorUnresponsive
    (fun _ t => { t with elapsed := 0#32, pc := .ackC })

/-- 41_frame_acquirer.md R95; `bit_idx` is 0 in the phase, and stays so when `BIT_START` is entered. -/
def Obligations.AckCRequiresLowAgain : Prop :=
  (∀ s : State, Inv s → s.pc = .ackC →
    s.bitIdx = 0 ∧ ∀ l : Level, (engineTick l s).pc = .bitStart → (engineTick l s).bitIdx = 0) ∧
  WaitPhase .ackC .ackC .low (fun s => s.tAck) 0 .sensorUnresponsive
    (fun _ t => { t with elapsed := 0#32, pc := .bitStart })

/-- 42_bit_sampler.md R100: the High sample that ends `BIT_START` is the first tick of the pulse. -/
def Obligations.BitStartWaitsForRise : Prop :=
  WaitPhase .bitStart .bitStart .high (fun s => s.tBitStart) 0 .bitStartTimeout
    (fun _ t => { t with elapsed := 1#32, pc := .bitMeasure })

/-- 42_bit_sampler.md R101: `BIT_MEASURE` ends with the number of High samples; the bit is 1 exactly when that number is
above `THRESH`, and is packed at position `bit_idx`. -/
def Obligations.BitMeasureClassifiesAndPacks : Prop :=
  WaitPhase .bitMeasure .bitMeasure .low (fun s => s.tMeasure) 1 .bitMeasureTimeout
    (fun e t => { t with x := pack t.x t.bitIdx (decide (t.thresh.toNat < e.toNat)), elapsed := 0#32, pc := .bitEnd })

/-- 42_bit_sampler.md R102. -/
def Obligations.BitEndGoesToNextBitOrValidate : Prop :=
  WaitPhase .bitEnd .bitEnd .low (fun s => s.tBitEnd) 0 .bitEndTimeout
    (fun _ t =>
      if t.bitIdx = 39 then { t with elapsed := 0#32, pc := .validate }
      else { t with elapsed := 0#32, bitIdx := t.bitIdx + 1, pc := .bitStart })

/-- 42_bit_sampler.md R103: `classify` is the strict unsigned comparison of values, and a Low sample in `BIT_MEASURE`
writes it at position `bit_idx` and nowhere else in the frame. -/
def Obligations.ClassificationIsStrictComparison : Prop :=
  (∀ (d : Word) (th : Ticks), (classify d th = true ↔ d.toNat > th.toNat) ∧ (d.toNat = th.toNat → classify d th = false)) ∧
  ∀ s : State, s.pc = .bitMeasure → s.lineIn = .low →
    ∃ t, exec .bitMeasure s = .next t ∧ frameBit t.x s.bitIdx = decide (s.elapsed.toNat > s.thresh.toNat) ∧
      ∀ j : Fin 40, j ≠ s.bitIdx → frameBit t.x j = frameBit s.x j

/-- 42_bit_sampler.md R104: packing writes one bit and no other, is an OR when that bit was 0, which it is whenever a bit
is measured, and forty of them in order make the byte sums. -/
def Obligations.PackingWritesOneBit : Prop :=
  (∀ (f : Frame) (i : Fin 40) (b : Bool) (k : Fin 5) (m : Nat), m < 8 →
    (frameGet (pack f i b) k).getLsbD m =
      if k.val = i.val / 8 ∧ m = 7 - i.val % 8 then b else (frameGet f k).getLsbD m) ∧
  (∀ (f : Frame) (i : Fin 40) (b : Bool), frameBit f i = false →
    frameGet (pack f i b) (byteIndex i) =
      frameGet f (byteIndex i) ||| (BitVec.ofNat 8 b.toNat <<< (7 - i.val % 8))) ∧
  (∀ s : State, Inv s → s.pc = .bitMeasure → frameBit s.x s.bitIdx = false) ∧
  (∀ (b : Fin 40 → Bool) (k : Fin 5),
    (frameGet ((List.finRange 40).foldl (fun f i => pack f i (b i)) Frame.zero) k).toNat =
      ∑ j : Fin 8, (b ⟨8 * k.val + j.val, by omega⟩).toNat * 2 ^ (7 - j.val))

/-- 30_encoding.md R63: position `i` is bit `7 - (i mod 8)` of byte `i / 8`, in the working frame when it is sampled and
in the result registers after a success. -/
def Obligations.FramePositionsInResultRegisters : Prop :=
  (∀ (f : Frame) (i : Fin 40), frameBit f i = (frameGet f ⟨i.val / 8, by omega⟩).getLsbD (7 - i.val % 8)) ∧
  (∀ s : State, s.pc = .bitMeasure → s.lineIn = .low →
    ∃ t, exec .bitMeasure s = .next t ∧
      (frameGet t.x ⟨s.bitIdx.val / 8, by omega⟩).getLsbD (7 - s.bitIdx.val % 8) = decide (s.thresh.toNat < s.elapsed.toNat)) ∧
  (∀ s : State, s.pc = .validate → s.x.b4 = checksum s.x →
    ∃ t, exec .validate s = .next t ∧
      (∀ i : Fin 40, i.val < 32 → (readRegister 0x38 t).getLsbD (31 - i.val) = frameBit s.x i) ∧
      (∀ i : Fin 40, 32 ≤ i.val → (readRegister 0x3C t).getLsbD (39 - i.val) = frameBit s.x i))

/-- 43_frame_validator.md R111. -/
def Obligations.ChecksumIsSumModulo256 : Prop :=
  ∀ f : Frame, (checksum f).toNat = (f.b0.toNat + f.b1.toNat + f.b2.toNat + f.b3.toNat) % 256 ∧
    f.b0.toNat + f.b1.toNat + f.b2.toNat + f.b3.toNat ≤ 1020

/-- 43_frame_validator.md R110 with `succeed()` of 44_retry_controller.md R117: the one tick of `VALIDATE`, both ways,
that no other tick succeeds, and what stands when it is entered. -/
def Obligations.ValidatePublishesOrDiscards : Prop :=
  (∀ (s : State) (l : Level), s.pc ≠ .validate → (engineTick l s).rstate = .success → s.rstate = .success) ∧
  (∀ s : State, Inv s → s.pc = .validate →
    s.bitIdx = 39 ∧ s.elapsed = 0#32 ∧ s.reason = .none ∧ s.lineOe = false ∧ s.rvalid = false ∧ s.d = Frame.zero) ∧
  ∀ s : State, s.pc = .validate →
    (s.x.b0 + s.x.b1 + s.x.b2 + s.x.b3 = s.x.b4 →
      exec .validate s = .next
        { s with
          chkCalc := s.x.b4
          chkRecv := s.x.b4
          d := s.x
          rvalid := true
          okIf := true
          rstate := .success
          x := ⟨0#8, 0#8, 0#8, 0#8, 0#8⟩
          bitIdx := 0
          elapsed := 0#32
          pc := .idle }) ∧
    (s.x.b0 + s.x.b1 + s.x.b2 + s.x.b3 ≠ s.x.b4 →
      exec .validate s = .next
        { s with
          chkCalc := s.x.b0 + s.x.b1 + s.x.b2 + s.x.b3
          chkRecv := s.x.b4
          reason := .checksumMismatch
          failIf := true
          rstate := .failure
          x := ⟨0#8, 0#8, 0#8, 0#8, 0#8⟩
          bitIdx := 0
          elapsed := 0#32
          lineOe := false
          pc := (if s.autoRetry = true then .backoff else .idle) })

/-- 43_frame_validator.md R112: for any first four bytes exactly one fifth byte is accepted; changing any one byte of an
accepted frame makes it rejected; +1 and -1 in two data bytes is not detected. -/
def Obligations.AcceptanceIsExactlyTheChecksum : Prop :=
  ∀ (s : State) (f : Frame), s.pc = .validate →
    (∃ t, exec .validate { s with x := f } = .next t ∧
      (t.rstate = .success ↔ f.b4.toNat = (f.b0.toNat + f.b1.toNat + f.b2.toNat + f.b3.toNat) % 256) ∧
      (t.rstate = .success ∨ t.rstate = .failure ∧ t.reason = .checksumMismatch)) ∧
    (∀ (k : Fin 5) (v : Byte) (t u : State), v ≠ frameGet f k → exec .validate { s with x := f } = .next t →
      exec .validate { s with x := frameSet f k v } = .next u → t.rstate = .success → u.rstate = .failure) ∧
    (∀ t u : State, exec .validate { s with x := f } = .next t →
      exec .validate { s with x := { f with b0 := f.b0 + 1#8, b1 := f.b1 - 1#8 } } = .next u →
      (u.rstate = .success ↔ t.rstate = .success))

/-- 44_retry_controller.md R118 with the codes of 30_encoding.md R67: what a failure writes, in each of the six wait phases
at its `Timeout` and in `VALIDATE` on a mismatch, and nothing else; the code `STATUS` then shows. -/
def Obligations.FailureEntryWritesExactly : Prop :=
  ∀ s : State,
    (s.reason = .none → (statusWord s).extractLsb' 8 3 = 0#3) ∧
    (∀ (i : Instr) (p : Phase) (budget : Ticks) (off : Level) (r : Reason) (code : BitVec 3),
      (i, p, budget, off, r, code) ∈
        [(Instr.ackA, Phase.ackA, s.tAck, Level.high, Reason.sensorUnresponsive, 1#3),
         (Instr.ackB, Phase.ackB, s.tAck, Level.low, Reason.sensorUnresponsive, 1#3),
         (Instr.ackC, Phase.ackC, s.tAck, Level.high, Reason.sensorUnresponsive, 1#3),
         (Instr.bitStart, Phase.bitStart, s.tBitStart, Level.low, Reason.bitStartTimeout, 2#3),
         (Instr.bitMeasure, Phase.bitMeasure, s.tMeasure, Level.high, Reason.bitMeasureTimeout, 3#3),
         (Instr.bitEnd, Phase.bitEnd, s.tBitEnd, Level.high, Reason.bitEndTimeout, 4#3)] →
      s.pc = p → s.lineIn = off → budget.toNat < s.elapsed.toNat →
      ∃ t, exec i s = .next t ∧ (statusWord t).extractLsb' 8 3 = code ∧
        t =
          { s with
            reason := r
            failIf := true
            rstate := .failure
            x := ⟨0#8, 0#8, 0#8, 0#8, 0#8⟩
            bitIdx := 0
            elapsed := 0#32
            lineOe := false
            pc := (if s.autoRetry = true then .backoff else .idle) }) ∧
    (s.pc = .validate → checksum s.x ≠ s.x.b4 →
      ∃ t, exec .validate s = .next t ∧ (statusWord t).extractLsb' 8 3 = 5#3 ∧
        t =
          { s with
            chkCalc := checksum s.x
            chkRecv := s.x.b4
            reason := .checksumMismatch
            failIf := true
            rstate := .failure
            x := ⟨0#8, 0#8, 0#8, 0#8, 0#8⟩
            bitIdx := 0
            elapsed := 0#32
            lineOe := false
            pc := (if s.autoRetry = true then .backoff else .idle) })

/-- 30_encoding.md R70: a reserved phase code has no rule; the model stops on it by name (log 9), and no state holds one. -/
def Obligations.ReservedPhaseCodesAreNeverHeld : Prop :=
  (∀ (low : BitVec 2) (s : State), exec (.phaseReserved low) s = .refused .reservedPhase) ∧
  (∀ s : State, (phaseCode s.pc).toNat ≤ 11 ∧ (reasonCode s.reason).toNat ≤ 5 ∧ s.bitIdx.val ≤ 39)

/-! Commands. -/

/-- 45_host_interface.md R132 with `begin_attempt()` of 44_retry_controller.md R116. -/
def Obligations.StartBeginsAttemptWhenIdle : Prop :=
  ∀ (rest : BitVec 31) (s : State),
    (s.pc = .idle →
      exec (.start rest) s = .next
        { s with
          x := ⟨0#8, 0#8, 0#8, 0#8, 0#8⟩
          d := ⟨0#8, 0#8, 0#8, 0#8, 0#8⟩
          chkCalc := 0#8
          chkRecv := 0#8
          reason := .none
          rvalid := false
          bitIdx := 0
          elapsed := 0#32
          lineOut := s.startLevel
          lineOe := true
          rstate := .acquiring
          pc := .startA }) ∧
    (s.pc ≠ .idle → exec (.start rest) s = .next s) ∧
    (s.pc = .backoff → s.elapsed.toNat ≤ 2 ^ 24 → s.tBackoff.toNat ≤ s.elapsed.toNat + 1 →
      exec .backoff s = exec (.start rest) { s with pc := .idle })

/-- 45_host_interface.md R133. -/
def Obligations.AckReturnsToIdleState : Prop :=
  ∀ (rest : BitVec 30) (s : State),
    (s.pc = .idle → s.rstate = .success ∨ s.rstate = .failure → exec (.ack rest) s = .next { s with rstate := .idle }) ∧
    (¬ (s.pc = .idle ∧ (s.rstate = .success ∨ s.rstate = .failure)) → exec (.ack rest) s = .next s)

/-- 45_host_interface.md R134. -/
def Obligations.NopAndCommandReadChangeNothing : Prop :=
  ∀ s : State, (∀ rest : BitVec 30, exec (.nop rest) s = .next s) ∧
    exec .cmd s = .next { s with readData := 0x00000000#32 } ∧
    (∀ v : Word, v.getLsbD 0 = true → v.getLsbD 1 = true → ∃ rest, decode (.write 0x00 4 v) = .ok (.start rest))

/-! Registers. -/

/-- 45_host_interface.md R135, 10_state.md R21: what a read of `STATUS` gives the host, field by field; a write is ignored;
a valid reading and a failure reason never stand together. -/
def Obligations.StatusShowsFields : Prop :=
  ∀ s : State,
    (∃ t, exec (.status .read) s = .next t ∧ t = { s with readData := t.readData } ∧
      t.readData.extractLsb' 0 1 = (if s.pc = .idle then 0#1 else 1#1) ∧
      t.readData.extractLsb' 1 1 = BitVec.ofBool s.rvalid ∧
      t.readData.extractLsb' 2 2 = rstateCode s.rstate ∧
      t.readData.extractLsb' 4 4 = phaseCode s.pc ∧
      t.readData.extractLsb' 8 3 = reasonCode s.reason ∧
      t.readData.extractLsb' 11 1 = 0#1 ∧
      (t.readData.extractLsb' 12 6).toNat = s.bitIdx.val ∧
      t.readData.extractLsb' 18 1 = 0#1 ∧
      t.readData.extractLsb' 19 1 = BitVec.ofBool s.lineOe ∧
      t.readData.extractLsb' 20 1 = (if s.lineOut = .high then 1#1 else 0#1) ∧
      t.readData.extractLsb' 21 11 = 0#11) ∧
    (∀ v : Word, exec (.status (.write v)) s = .next s) ∧
    statusWord State.reset = 0x00000000#32 ∧
    (Inv s → ¬ (s.rvalid = true ∧ s.reason ≠ .none))

/-- 45_host_interface.md R136: the read, the write-1-to-clear, and that no host access sets a flag. -/
def Obligations.IflagClearsWrittenOnes : Prop :=
  ∀ s : State,
    exec (.iflag .read) s = .next { s with readData := 0#30 ++ BitVec.ofBool s.failIf ++ BitVec.ofBool s.okIf } ∧
    (∀ v : Word, exec (.iflag (.write v)) s = .next
      { s with
        okIf := (if v.getLsbD 0 = true then false else s.okIf)
        failIf := (if v.getLsbD 1 = true then false else s.failIf) }) ∧
    (∀ (addr : Nat) (v : Word), ((writeRegister addr v s).okIf = true → s.okIf = true) ∧
      ((writeRegister addr v s).failIf = true → s.failIf = true))

/-- 45_host_interface.md R137: read and write at any time; `irq` follows the stored enables (60_exceptions.md R165), and
nothing else does: no tick and no other register reads them. -/
def Obligations.IenGatesOnlyTheInterrupt : Prop :=
  ∀ s : State,
    exec (.ien .read) s = .next { s with readData := 0#30 ++ BitVec.ofBool s.failIe ++ BitVec.ofBool s.okIe } ∧
    (∀ v : Word, exec (.ien (.write v)) s = .next { s with okIe := v.getLsbD 0, failIe := v.getLsbD 1 }) ∧
    (∀ a b : Bool,
      (irq { s with okIe := a, failIe := b } = true ↔ (s.okIf = true ∧ a = true) ∨ (s.failIf = true ∧ b = true)) ∧
      (∀ l : Level, engineTick l { s with okIe := a, failIe := b } = { engineTick l s with okIe := a, failIe := b }) ∧
      (∀ addr : Nat, addr ≠ 0x0C → readRegister addr { s with okIe := a, failIe := b } = readRegister addr s))

/-- 45_host_interface.md R138. -/
def Obligations.CfgStoresWhileIdle : Prop :=
  ∀ s : State,
    (∃ t, exec (.cfg .read) s = .next t ∧ t = { s with readData := t.readData } ∧
      t.readData.extractLsb' 0 1 = BitVec.ofBool s.autoRetry ∧
      t.readData.extractLsb' 1 1 = (if s.startLevel = .high then 1#1 else 0#1) ∧ t.readData.extractLsb' 2 30 = 0#30) ∧
    (∀ v : Word, s.pc = .idle → exec (.cfg (.write v)) s = .next
      { s with autoRetry := v.getLsbD 0, startLevel := (if v.getLsbD 1 = true then .high else .low) }) ∧
    (∀ v : Word, s.pc ≠ .idle → exec (.cfg (.write v)) s = .next s)

/-- 45_host_interface.md R139 to R147: the nine time registers, read zero-extended, stored in `IDLE`, locked otherwise. -/
def Obligations.TimeRegistersStoreWhileIdle : Prop :=
  ∀ s : State,
    (exec (.thresh .read) s = .next { s with readData := s.thresh.setWidth 32 } ∧
      exec (.tStartA .read) s = .next { s with readData := s.tStartA.setWidth 32 } ∧
      exec (.tStartB .read) s = .next { s with readData := s.tStartB.setWidth 32 } ∧
      exec (.tSettle .read) s = .next { s with readData := s.tSettle.setWidth 32 } ∧
      exec (.tAck .read) s = .next { s with readData := s.tAck.setWidth 32 } ∧
      exec (.tBitStart .read) s = .next { s with readData := s.tBitStart.setWidth 32 } ∧
      exec (.tMeasure .read) s = .next { s with readData := s.tMeasure.setWidth 32 } ∧
      exec (.tBitEnd .read) s = .next { s with readData := s.tBitEnd.setWidth 32 } ∧
      exec (.tBackoff .read) s = .next { s with readData := s.tBackoff.setWidth 32 }) ∧
    (∀ v : Word, s.pc = .idle →
      exec (.thresh (.write v)) s = .next { s with thresh := v.extractLsb' 0 24 } ∧
      exec (.tStartA (.write v)) s = .next { s with tStartA := v.extractLsb' 0 24 } ∧
      exec (.tStartB (.write v)) s = .next { s with tStartB := v.extractLsb' 0 24 } ∧
      exec (.tSettle (.write v)) s = .next { s with tSettle := v.extractLsb' 0 24 } ∧
      exec (.tAck (.write v)) s = .next { s with tAck := v.extractLsb' 0 24 } ∧
      exec (.tBitStart (.write v)) s = .next { s with tBitStart := v.extractLsb' 0 24 } ∧
      exec (.tMeasure (.write v)) s = .next { s with tMeasure := v.extractLsb' 0 24 } ∧
      exec (.tBitEnd (.write v)) s = .next { s with tBitEnd := v.extractLsb' 0 24 } ∧
      exec (.tBackoff (.write v)) s = .next { s with tBackoff := v.extractLsb' 0 24 }) ∧
    (∀ (v : Word) (i : Instr),
      i ∈ [Instr.thresh (.write v), .tStartA (.write v), .tStartB (.write v), .tSettle (.write v), .tAck (.write v),
        .tBitStart (.write v), .tMeasure (.write v), .tBitEnd (.write v), .tBackoff (.write v)] →
      s.pc ≠ .idle → exec i s = .next s)

/-- 45_host_interface.md R148: the five result views; writes are ignored; while an attempt runs all but `ELAPSED` read 0;
during `BACKOFF` `CHK` shows the pair that stands. -/
def Obligations.ResultRegistersAreViews : Prop :=
  (∀ s : State,
    (∃ t, exec (.data0 .read) s = .next t ∧ t = { s with readData := t.readData } ∧
      t.readData.extractLsb' 24 8 = s.d.b0 ∧ t.readData.extractLsb' 16 8 = s.d.b1 ∧
      t.readData.extractLsb' 8 8 = s.d.b2 ∧ t.readData.extractLsb' 0 8 = s.d.b3) ∧
    (∃ t, exec (.data1 .read) s = .next t ∧ t = { s with readData := t.readData } ∧
      t.readData.extractLsb' 0 8 = s.d.b4 ∧ t.readData.extractLsb' 8 24 = 0#24) ∧
    (∃ t, exec (.reading .read) s = .next t ∧ t = { s with readData := t.readData } ∧
      t.readData.extractLsb' 8 8 = s.d.b0 ∧ t.readData.extractLsb' 0 8 = s.d.b2 ∧
      t.readData.extractLsb' 16 16 = 0#16) ∧
    (∃ t, exec (.chk .read) s = .next t ∧ t = { s with readData := t.readData } ∧
      t.readData.extractLsb' 8 8 = s.chkCalc ∧ t.readData.extractLsb' 0 8 = s.chkRecv ∧
      t.readData.extractLsb' 16 16 = 0#16) ∧
    exec (.elapsed .read) s = .next { s with readData := s.elapsed } ∧
    (∀ (v : Word) (i : Instr),
      i ∈ [Instr.data0 (.write v), .data1 (.write v), .reading (.write v), .chk (.write v), .elapsed (.write v)] →
      exec i s = .next s)) ∧
  (∀ (s : State) (addr : Nat), Inv s → s.rstate = .acquiring → addr ∈ [0x38, 0x3C, 0x40, 0x44] →
    readRegister addr s = 0#32) ∧
  (∀ s : State, s.pc = .validate → s.autoRetry = true → checksum s.x ≠ s.x.b4 →
    ∃ t, exec .validate s = .next t ∧ t.pc = .backoff ∧ readRegister 0x44 t = 0#16 ++ checksum s.x ++ s.x.b4) ∧
  (∀ (s : State) (l : Level), s.pc = .backoff → (engineTick l s).pc = .backoff →
    readRegister 0x44 (engineTick l s) = readRegister 0x44 s)

/-- 45_host_interface.md R149. -/
def Obligations.ReservedOffsetsReadZero : Prop :=
  ∀ (s : State) (v : Word),
    (exec (.reserved4C .read) s = .next { s with readData := 0#32 } ∧ exec (.reserved4C (.write v)) s = .next s) ∧
    (∀ slot : BitVec 2, exec (.reserved50 slot .read) s = .next { s with readData := 0#32 } ∧
      exec (.reserved50 slot (.write v)) s = .next s) ∧
    (∀ slot : BitVec 3, exec (.reserved60 slot .read) s = .next { s with readData := 0#32 } ∧
      exec (.reserved60 slot (.write v)) s = .next s) ∧
    (∀ slot : BitVec 5, exec (.reserved80 slot .read) s = .next { s with readData := 0#32 } ∧
      exec (.reserved80 slot (.write v)) s = .next s)

/-- 45_host_interface.md R130: a read step gives the host the register's word, every reserved bit of it 0, and changes
nothing else (`readData` is the host's, log 4). -/
def Obligations.ReadStepReturnsRegister : Prop :=
  (∀ (s : State) (rest : List Event) (addr : Nat), s.agenda = .read addr 4 :: rest → addr % 4 = 0 → addr ≤ 0xFC →
    step s = .next { s with agenda := rest, readData := readRegister addr s }) ∧
  (∀ (s : State) (addr : Nat), readRegister addr s &&& reservedBits addr = 0#32)

/-- 45_host_interface.md R131: what a write step does, by offset: a command, the write-1-to-clear, a plain store, a store
gated by `pc = IDLE`, or nothing; `writeRegister` is that as one function. -/
def Obligations.WriteStepEffectByOffset : Prop :=
  ∀ (s : State) (rest : List Event) (addr : Nat) (v : Word), s.agenda = .write addr 4 v :: rest → addr % 4 = 0 →
    addr ≤ 0xFC →
    ∃ t, step s = .next t ∧ t = writeRegister addr v { s with agenda := rest } ∧
      (addr = 0x00 → ∀ i, decode (.write 0x00 4 v) = .ok i → exec i { s with agenda := rest } = .next t) ∧
      (addr = 0x08 → t =
        { s with agenda := rest, okIf := s.okIf && !v.getLsbD 0, failIf := s.failIf && !v.getLsbD 1 }) ∧
      (addr = 0x0C → t = { s with agenda := rest, okIe := v.getLsbD 0, failIe := v.getLsbD 1 }) ∧
      (0x10 ≤ addr → addr ≤ 0x34 → s.pc = .idle →
        t.withoutConfig = { s with agenda := rest }.withoutConfig ∧
        readRegister addr t = v &&& ~~~reservedBits addr ∧
        (∀ other, other ≠ addr → 0x10 ≤ other → other ≤ 0x34 → readRegister other t = readRegister other s)) ∧
      (0x10 ≤ addr → addr ≤ 0x34 → s.pc ≠ .idle → t = { s with agenda := rest }) ∧
      (addr = 0x04 ∨ 0x38 ≤ addr → t = { s with agenda := rest })

/-- 20_memory.md R47: a configuration write while busy is ignored; while idle it takes effect at once; and no step of an
attempt or a backoff changes a configuration register, short of a reset. -/
def Obligations.ConfigurationIsConstantWhileBusy : Prop :=
  (∀ (s : State) (rest : List Event) (addr : Nat) (v : Word), s.agenda = .write addr 4 v :: rest → addr % 4 = 0 →
    0x10 ≤ addr → addr ≤ 0x34 → s.pc ≠ .idle → step s = .next { s with agenda := rest }) ∧
  (∀ (s : State) (rest : List Event) (addr : Nat) (v : Word), s.agenda = .write addr 4 v :: rest → addr % 4 = 0 →
    0x10 ≤ addr → addr ≤ 0x34 → s.pc = .idle →
    ∃ t, step s = .next t ∧ readRegister addr t = v &&& ~~~reservedBits addr) ∧
  (∀ s t : State, step s = .next t → s.pc ≠ .idle → (∀ rest, s.agenda ≠ .reset :: rest) → SameConfig s t)

/-! Wire symbols. -/

/-- What a symbol does to an engine that waits for a bit's rise. Within the budgets the bit is classified by its width,
packed, and the engine waits for the next bit, or validates after the last; either row, whichever side of `THRESH` its
width is on (42_bit_sampler.md R100 to R104). A pulse or a gap beyond its budget fails the attempt at the sample that
exceeds it, and the rest of the symbol is sampled by whatever phase follows (30_encoding.md R62, R70). That a symbol is
one step and that the row's name decides nothing is the model's choice (log 7). -/
def Obligations.SymbolIsOneClassifiedBit : Prop :=
  (∀ (s : State) (gap width : Nat),
    exec (.bit0 gap width) s = .next (runSamples (symbolSamples gap width) s) ∧
      exec (.bit1 gap width) s = .next (runSamples (symbolSamples gap width) s)) ∧
  ∀ (s : State) (gap width : Nat), s.pc = .bitStart → s.elapsed = 0#32 →
    ∃ t, exec (.bit0 gap width) s = .next t ∧ exec (.bit1 gap width) s = .next t ∧
      (gap ≤ s.tBitStart.toNat + 1 → 1 ≤ width → width ≤ s.tMeasure.toNat + 1 →
        t =
          { s with
            x := pack s.x s.bitIdx (decide (s.thresh.toNat < width))
            bitIdx := (if s.bitIdx = 39 then 39 else s.bitIdx + 1)
            pc := (if s.bitIdx = 39 then .validate else .bitStart)
            lineIn := .low }) ∧
      (gap ≤ s.tBitStart.toNat + 1 → s.tMeasure.toNat + 2 ≤ width →
        t = runSamples ((symbolSamples gap width).drop (gap + (s.tMeasure.toNat + 2)))
          (fail .bitMeasureTimeout { s with lineIn := .high })) ∧
      (s.tBitStart.toNat + 2 ≤ gap →
        t = runSamples ((symbolSamples gap width).drop (s.tBitStart.toNat + 2))
          (fail .bitStartTimeout { s with lineIn := .low }))

/-- The property 42_bit_sampler.md R101 quotes, over a whole frame, with R106: forty symbols within the budgets bring an
engine that waits for bit 0 to `VALIDATE` with bit `i` of the frame 1 exactly when the `i`-th pulse is wider than
`THRESH`. -/
def Obligations.FortySymbolsMakeOneFrame : Prop :=
  ∀ (s : State) (symbols : List (Nat × Nat)), s.pc = .bitStart → s.bitIdx = 0 → s.elapsed = 0#32 → s.x = Frame.zero →
    symbols.length = 40 →
    (∀ p ∈ symbols, p.1 ≤ s.tBitStart.toNat + 1 ∧ 1 ≤ p.2 ∧ p.2 ≤ s.tMeasure.toNat + 1) →
    ∃ f, FrameOfWidths s.thresh symbols f ∧
      receiveSymbols symbols s = { s with x := f, bitIdx := 39, pc := .validate, lineIn := .low }

/-- A whole well-formed attempt, from an accepted START to its last tick: the length of 70_reset_and_hazards.md R196, and
the outcome the widths alone decide. `g` are the gaps as the sampler sees them: R196's `g_0` less one, `g_i` less two. -/
def Obligations.WellFormedAttemptDecodesItsPulses : Prop :=
  ∀ (s : State) (drive : List Level) (a p q : Nat) (symbols : List (Nat × Nat)) (last : Level),
    s.pc = .idle →
    drive.length = max s.tStartA.toNat 1 + max s.tStartB.toNat 1 + max s.tSettle.toNat 1 →
    a ≤ s.tAck.toNat + 1 → 1 ≤ p → p ≤ s.tAck.toNat + 2 → 1 ≤ q → q ≤ s.tAck.toNat + 2 →
    symbols.length = 40 →
    (∀ w ∈ symbols, w.1 ≤ s.tBitStart.toNat + 1 ∧ 1 ≤ w.2 ∧ w.2 ≤ s.tMeasure.toNat + 1) →
    ∃ f t, FrameOfWidths s.thresh symbols f ∧
      (runSamples
        (drive ++ List.replicate a .high ++ List.replicate p .low ++ List.replicate q .high ++ [.low] ++
          symbols.flatMap (fun w => symbolSamples w.1 w.2))
        (startCommand s)).pc = .validate ∧
      runSamples
        (drive ++ List.replicate a .high ++ List.replicate p .low ++ List.replicate q .high ++ [.low] ++
          symbols.flatMap (fun w => symbolSamples w.1 w.2) ++ [last])
        (startCommand s) = t ∧
      (f.b4 = checksum f →
        t.pc = .idle ∧ t.rstate = .success ∧ t.rvalid = true ∧ t.d = f ∧ t.okIf = true ∧ t.reason = .none) ∧
      (f.b4 ≠ checksum f →
        t.pc = (if s.autoRetry = true then .backoff else .idle) ∧ t.rstate = .failure ∧ t.rvalid = false ∧
          t.d = Frame.zero ∧ t.reason = .checksumMismatch ∧ t.chkCalc = checksum f ∧ t.chkRecv = f.b4)

/-! The whole machine. -/

/-- 10_state.md R37 at reset, with the two clauses `InvClean` and `InvLevel`. -/
def Obligations.InvariantHoldsAtReset : Prop := Inv State.reset

/-- 10_state.md R37 (with `InvClean` and `InvLevel`): every step keeps the invariants,
whatever the next step is, from every state that meets them. -/
def Obligations.EveryStepKeepsInvariant : Prop := ∀ s t : State, Inv s → step s = .next t → Inv t

/-- 44_retry_controller.md R123: while an attempt or a backoff runs no host access touches anything the attempt reads or
leaves (only the flags and the enables can change), and reset alone ends an attempt without a tick. -/
def Obligations.HostCannotCancelAttempt : Prop :=
  (∀ (s t : State) (e : Event) (rest : List Event), s.agenda = e :: rest → hostAccess e → step s = .next t →
    s.pc ≠ .idle → t.attemptView = s.attemptView) ∧
  (∀ (s : State) (rest : List Event) (v : Word), s.agenda = .write 0x00 4 v :: rest → s.pc ≠ .idle →
    step s = .next { s with agenda := rest }) ∧
  (∀ (s t : State) (e : Event) (rest : List Event), s.agenda = e :: rest → step s = .next t → s.pc ≠ .idle →
    t.pc ≠ s.pc → e = .reset ∨ (∃ l, e = .tick l) ∨ (∃ b gap width, e = .symbol b gap width))

/-- 44_retry_controller.md R122: `pc` moves only along the graph: one edge for a tick, no move or the one from `IDLE` to
`START_A` for a host access, to `IDLE` for a reset; a path of edges for a symbol (which is many ticks) as for all. -/
def Obligations.PhaseMovesOnlyAlongGraph : Prop :=
  ∀ s t : State, step s = .next t →
    ((s.agenda = [] ∨ ∃ l rest, s.agenda = .tick l :: rest) → phaseEdge s.pc t.pc) ∧
    (∀ e rest, s.agenda = e :: rest → hostAccess e → t.pc = s.pc ∨ s.pc = .idle ∧ t.pc = .startA) ∧
    (∀ rest, s.agenda = .reset :: rest → t.pc = .idle) ∧
    ((∀ rest, s.agenda ≠ .reset :: rest) → Relation.ReflTransGen phaseEdge s.pc t.pc)

/-- 44_retry_controller.md R115: every transition of `rstate`, with its event, in both modes; a tick, a host access or a
reset (a symbol is many ticks). -/
def Obligations.RetryStateTransitions : Prop :=
  ∀ s t : State, Inv s → step s = .next t → (∀ b gap width rest, s.agenda ≠ .symbol b gap width :: rest) →
    (∃ rest, s.agenda = .reset :: rest ∧ t.rstate = .idle) ∨
    t.rstate = s.rstate ∨
    (s.pc = .idle ∧ s.rstate ≠ .acquiring ∧ t.rstate = .acquiring ∧
      ∃ v rest, s.agenda = .write 0x00 4 v :: rest ∧ v.getLsbD 0 = true) ∨
    (s.rstate = .acquiring ∧ t.rstate = .success ∧ s.pc = .validate ∧ s.x.b4 = checksum s.x ∧ t.pc = .idle) ∨
    (s.rstate = .acquiring ∧ t.rstate = .failure ∧ t.reason ≠ .none ∧ s.pc ∈ [.ackA, .ackB, .ackC, .bitStart, .bitMeasure, .bitEnd, .validate] ∧
      (s.autoRetry = true → t.pc = .backoff) ∧ (s.autoRetry = false → t.pc = .idle)) ∨
    (s.rstate = .failure ∧ s.pc = .backoff ∧ s.tBackoff.toNat ≤ s.elapsed.toNat + 1 ∧ t.rstate = .acquiring ∧
      t.pc = .startA) ∨
    (s.pc = .idle ∧ (s.rstate = .success ∨ s.rstate = .failure) ∧ t.rstate = .idle ∧
      ∃ v rest, s.agenda = .write 0x00 4 v :: rest ∧ v.getLsbD 0 = false ∧ v.getLsbD 1 = true)

/-- 00_scope.md R8: two attempts begun under one configuration and given the same samples agree in everything an attempt
leaves, whatever else the two blocks held before. -/
def Obligations.OutcomeIsFunctionOfConfigAndSamples : Prop :=
  ∀ (s t : State) (ls : List Level), s.pc = .idle → t.pc = .idle → SameConfig s t →
    (runSamples ls (startCommand s)).attemptView = (runSamples ls (startCommand t)).attemptView

/-- 00_scope.md R8 with 20_memory.md R47: host accesses in between, as many as the host likes, leave an attempt that stays
busy as it would be without them. -/
def Obligations.HostAccessesDoNotDisturbAttempt : Prop :=
  ∀ (s : State) (es rest : List Event),
    (∀ e ∈ es, (∃ l, e = .tick l) ∨ hostAccess e) →
    (∀ before e after, es = before ++ e :: after → hostAccess e → (runSamples (tickSamples before) s).pc ≠ .idle) →
    ∃ t, Sys2Proof.core.run es.length { s with agenda := es ++ rest } = .next t ∧ t.agenda = rest ∧
      t.attemptView = (runSamples (tickSamples es) s).attemptView

/-- 42_bit_sampler.md R105: a failure in a bit phase leaves nothing of the bits: the state after it is the same whatever the
working frame held, the result registers read 0, and no register ever shows the working frame. -/
def Obligations.FailedAttemptLeavesNoBits : Prop :=
  (∀ (s : State) (l : Level) (f : Frame), s.pc = .bitStart ∨ s.pc = .bitMeasure ∨ s.pc = .bitEnd →
    (engineTick l s).rstate = .failure → s.rstate ≠ .failure →
    engineTick l { s with x := f } = engineTick l s ∧
      (engineTick l s).x = Frame.zero ∧ (engineTick l s).bitIdx = 0 ∧ (engineTick l s).d = s.d) ∧
  (∀ (s : State) (l : Level), Inv s → s.pc = .bitStart ∨ s.pc = .bitMeasure ∨ s.pc = .bitEnd →
    (engineTick l s).rstate = .failure →
    ∀ addr ∈ [0x38, 0x3C, 0x40, 0x44], readRegister addr (engineTick l s) = 0#32) ∧
  (∀ (s : State) (f : Frame) (addr : Nat), readRegister addr { s with x := f } = readRegister addr s)

/-- Only the engine sets a flag, in the tick that ends an attempt: `OK_IF` in `VALIDATE`, `FAIL_IF` there or in one of the
six wait phases; only the host's written 1 or a reset clears one (60_exceptions.md R164). A symbol is many ticks. -/
def Obligations.FlagsSetByEngineClearedByHost : Prop :=
  ∀ s t : State, step s = .next t →
    (∀ b gap width rest, s.agenda ≠ .symbol b gap width :: rest) →
    (s.okIf = false → t.okIf = true →
      (s.agenda = [] ∨ ∃ l rest, s.agenda = .tick l :: rest) ∧ s.pc = .validate ∧ s.x.b4 = checksum s.x ∧
        t.rstate = .success) ∧
    (s.failIf = false → t.failIf = true →
      (s.agenda = [] ∨ ∃ l rest, s.agenda = .tick l :: rest) ∧ (waitPhaseOf s.pc ∨ s.pc = .validate) ∧
        t.rstate = .failure ∧ t.reason ≠ .none ∧ (t.pc = .idle ∨ t.pc = .backoff)) ∧
    (s.okIf = true → t.okIf = false →
      (∃ rest, s.agenda = .reset :: rest) ∨ ∃ v rest, s.agenda = .write 0x08 4 v :: rest ∧ v.getLsbD 0 = true) ∧
    (s.failIf = true → t.failIf = false →
      (∃ rest, s.agenda = .reset :: rest) ∨ ∃ v rest, s.agenda = .write 0x08 4 v :: rest ∧ v.getLsbD 1 = true)

/-- 60_exceptions.md R165: the level of `irq`, after reset, and what every word the host writes to `IFLAG` or to `IEN` makes
of it: it falls when the flag or the enable that holds it up is cleared, and not otherwise. -/
def Obligations.InterruptLevel : Prop :=
  (∀ s : State, irq s = true ↔ (s.okIf = true ∧ s.okIe = true) ∨ (s.failIf = true ∧ s.failIe = true)) ∧
  irq State.reset = false ∧
  (∀ (s : State) (rest : List Event) (v : Word), s.agenda = .write 0x08 4 v :: rest →
    ∃ t, step s = .next t ∧
      (irq t = true ↔ (s.okIf = true ∧ v.getLsbD 0 = false ∧ s.okIe = true) ∨
        (s.failIf = true ∧ v.getLsbD 1 = false ∧ s.failIe = true))) ∧
  (∀ (s : State) (rest : List Event) (v : Word), s.agenda = .write 0x0C 4 v :: rest →
    ∃ t, step s = .next t ∧
      (irq t = true ↔ (s.okIf = true ∧ v.getLsbD 0 = true) ∨ (s.failIf = true ∧ v.getLsbD 1 = true)))

/-- A result stands until the host begins the next attempt or resets the block (20_memory.md R50). -/
def Obligations.ResultHeldUntilNextStart : Prop :=
  ∀ s t : State, Inv s → step s = .next t → s.rvalid = true →
    (t.d = s.d ∧ t.rvalid = s.rvalid ∧ t.chkCalc = s.chkCalc ∧ t.chkRecv = s.chkRecv) ∨
    (∃ rest, s.agenda = .reset :: rest) ∨ ∃ v rest, s.agenda = .write 0x00 4 v :: rest ∧ v.getLsbD 0 = true

/-- 43_frame_validator.md R113: the Reading after a success is the first and the third byte of the frame; after a failure
of an attempt it is 0 and not valid. -/
def Obligations.ReadingIsFirstAndThirdByte : Prop :=
  (∀ s : State, s.pc = .validate → s.x.b4 = checksum s.x →
    ∃ t, exec .validate s = .next t ∧ (readRegister 0x40 t).extractLsb' 8 8 = s.x.b0 ∧
      (readRegister 0x40 t).extractLsb' 0 8 = s.x.b2 ∧ t.rvalid = true ∧
      (readRegister 0x38 t).extractLsb' 16 8 = s.x.b1 ∧ (readRegister 0x38 t).extractLsb' 0 8 = s.x.b3) ∧
  (∀ s t : State, Inv s → step s = .next t → t.rstate = .failure →
    readRegister 0x40 t = 0#32 ∧ (readRegister 0x04 t).getLsbD 1 = false)

/-- The engine reads the line only in the six wait phases (10_state.md R25, 20_memory.md R51): elsewhere the sample makes
no difference to the block. -/
def Obligations.SampleIgnoredOutsideWaits : Prop :=
  ∀ (s : State) (l m : Level), ¬ waitPhaseOf s.pc → (engineTick l s).block = (engineTick m s).block

/-- 70_reset_and_hazards.md R195: an attempt ends within the bound, and not before the start signal and the settling delay
are over. -/
def Obligations.EveryAttemptEndsWithinBound : Prop :=
  ∀ (s : State) (ls : List Level), s.pc = .idle →
    (ls.length = attemptBound s → ∃ k ≤ ls.length,
      (runSamples (ls.take k) (startCommand s)).rstate = .success ∨
        (runSamples (ls.take k) (startCommand s)).rstate = .failure) ∧
    (ls.length ≤ max s.tStartA.toNat 1 + max s.tStartB.toNat 1 + max s.tSettle.toNat 1 →
      (runSamples ls (startCommand s)).rstate = .acquiring)

/-- 44_retry_controller.md R121: with automatic retry and a line that never answers, the engine is busy after any number of
ticks, and after any number of ticks it still begins another attempt: there is no retry limit. -/
def Obligations.SilentLineRetriesForever : Prop :=
  ∀ (s : State) (n : Nat), s.pc = .idle → s.autoRetry = true →
    (runSamples (List.replicate n .high) (startCommand s)).pc ∈ [.startA, .startB, .settle, .ackA, .backoff] ∧
    ∃ m, n ≤ m ∧ (runSamples (List.replicate m .high) (startCommand s)).pc = .backoff ∧
      (runSamples (List.replicate (m + 1) .high) (startCommand s)).pc = .startA
end

