-- ==== Sys2Proof/Laws/State.lean ====
section
/-! SUPPORT. One lemma per field per update: what each shared update of the state makes of each field. -/

namespace Sys2Proof.Machine

/-! One sample of the line. -/

@[simp] theorem sampleLine_x (l : Level) (s : State) : (sampleLine l s).x = s.x := rfl
@[simp] theorem sampleLine_pc (l : Level) (s : State) : (sampleLine l s).pc = s.pc := rfl
@[simp] theorem sampleLine_bitIdx (l : Level) (s : State) : (sampleLine l s).bitIdx = s.bitIdx := rfl
@[simp] theorem sampleLine_elapsed (l : Level) (s : State) : (sampleLine l s).elapsed = s.elapsed := rfl
@[simp] theorem sampleLine_d (l : Level) (s : State) : (sampleLine l s).d = s.d := rfl
@[simp] theorem sampleLine_chkCalc (l : Level) (s : State) : (sampleLine l s).chkCalc = s.chkCalc := rfl
@[simp] theorem sampleLine_chkRecv (l : Level) (s : State) : (sampleLine l s).chkRecv = s.chkRecv := rfl
@[simp] theorem sampleLine_reason (l : Level) (s : State) : (sampleLine l s).reason = s.reason := rfl
@[simp] theorem sampleLine_rvalid (l : Level) (s : State) : (sampleLine l s).rvalid = s.rvalid := rfl
@[simp] theorem sampleLine_rstate (l : Level) (s : State) : (sampleLine l s).rstate = s.rstate := rfl
@[simp] theorem sampleLine_okIf (l : Level) (s : State) : (sampleLine l s).okIf = s.okIf := rfl
@[simp] theorem sampleLine_failIf (l : Level) (s : State) : (sampleLine l s).failIf = s.failIf := rfl
@[simp] theorem sampleLine_okIe (l : Level) (s : State) : (sampleLine l s).okIe = s.okIe := rfl
@[simp] theorem sampleLine_failIe (l : Level) (s : State) : (sampleLine l s).failIe = s.failIe := rfl
@[simp] theorem sampleLine_autoRetry (l : Level) (s : State) : (sampleLine l s).autoRetry = s.autoRetry := rfl
@[simp] theorem sampleLine_startLevel (l : Level) (s : State) : (sampleLine l s).startLevel = s.startLevel := rfl
@[simp] theorem sampleLine_thresh (l : Level) (s : State) : (sampleLine l s).thresh = s.thresh := rfl
@[simp] theorem sampleLine_tStartA (l : Level) (s : State) : (sampleLine l s).tStartA = s.tStartA := rfl
@[simp] theorem sampleLine_tStartB (l : Level) (s : State) : (sampleLine l s).tStartB = s.tStartB := rfl
@[simp] theorem sampleLine_tSettle (l : Level) (s : State) : (sampleLine l s).tSettle = s.tSettle := rfl
@[simp] theorem sampleLine_tAck (l : Level) (s : State) : (sampleLine l s).tAck = s.tAck := rfl
@[simp] theorem sampleLine_tBitStart (l : Level) (s : State) : (sampleLine l s).tBitStart = s.tBitStart := rfl
@[simp] theorem sampleLine_tMeasure (l : Level) (s : State) : (sampleLine l s).tMeasure = s.tMeasure := rfl
@[simp] theorem sampleLine_tBitEnd (l : Level) (s : State) : (sampleLine l s).tBitEnd = s.tBitEnd := rfl
@[simp] theorem sampleLine_tBackoff (l : Level) (s : State) : (sampleLine l s).tBackoff = s.tBackoff := rfl
@[simp] theorem sampleLine_lineOe (l : Level) (s : State) : (sampleLine l s).lineOe = s.lineOe := rfl
@[simp] theorem sampleLine_lineOut (l : Level) (s : State) : (sampleLine l s).lineOut = s.lineOut := rfl
@[simp] theorem sampleLine_lineIn (l : Level) (s : State) : (sampleLine l s).lineIn = l := rfl
@[simp] theorem sampleLine_agenda (l : Level) (s : State) : (sampleLine l s).agenda = s.agenda := rfl
@[simp] theorem sampleLine_freeIdx (l : Level) (s : State) : (sampleLine l s).freeIdx = s.freeIdx := rfl
@[simp] theorem sampleLine_readData (l : Level) (s : State) : (sampleLine l s).readData = s.readData := rfl

/-! A read's answer. -/

@[simp] theorem answerRead_x (v : Word) (s : State) : (answerRead v s).x = s.x := rfl
@[simp] theorem answerRead_pc (v : Word) (s : State) : (answerRead v s).pc = s.pc := rfl
@[simp] theorem answerRead_bitIdx (v : Word) (s : State) : (answerRead v s).bitIdx = s.bitIdx := rfl
@[simp] theorem answerRead_elapsed (v : Word) (s : State) : (answerRead v s).elapsed = s.elapsed := rfl
@[simp] theorem answerRead_d (v : Word) (s : State) : (answerRead v s).d = s.d := rfl
@[simp] theorem answerRead_chkCalc (v : Word) (s : State) : (answerRead v s).chkCalc = s.chkCalc := rfl
@[simp] theorem answerRead_chkRecv (v : Word) (s : State) : (answerRead v s).chkRecv = s.chkRecv := rfl
@[simp] theorem answerRead_reason (v : Word) (s : State) : (answerRead v s).reason = s.reason := rfl
@[simp] theorem answerRead_rvalid (v : Word) (s : State) : (answerRead v s).rvalid = s.rvalid := rfl
@[simp] theorem answerRead_rstate (v : Word) (s : State) : (answerRead v s).rstate = s.rstate := rfl
@[simp] theorem answerRead_okIf (v : Word) (s : State) : (answerRead v s).okIf = s.okIf := rfl
@[simp] theorem answerRead_failIf (v : Word) (s : State) : (answerRead v s).failIf = s.failIf := rfl
@[simp] theorem answerRead_okIe (v : Word) (s : State) : (answerRead v s).okIe = s.okIe := rfl
@[simp] theorem answerRead_failIe (v : Word) (s : State) : (answerRead v s).failIe = s.failIe := rfl
@[simp] theorem answerRead_autoRetry (v : Word) (s : State) : (answerRead v s).autoRetry = s.autoRetry := rfl
@[simp] theorem answerRead_startLevel (v : Word) (s : State) : (answerRead v s).startLevel = s.startLevel := rfl
@[simp] theorem answerRead_thresh (v : Word) (s : State) : (answerRead v s).thresh = s.thresh := rfl
@[simp] theorem answerRead_tStartA (v : Word) (s : State) : (answerRead v s).tStartA = s.tStartA := rfl
@[simp] theorem answerRead_tStartB (v : Word) (s : State) : (answerRead v s).tStartB = s.tStartB := rfl
@[simp] theorem answerRead_tSettle (v : Word) (s : State) : (answerRead v s).tSettle = s.tSettle := rfl
@[simp] theorem answerRead_tAck (v : Word) (s : State) : (answerRead v s).tAck = s.tAck := rfl
@[simp] theorem answerRead_tBitStart (v : Word) (s : State) : (answerRead v s).tBitStart = s.tBitStart := rfl
@[simp] theorem answerRead_tMeasure (v : Word) (s : State) : (answerRead v s).tMeasure = s.tMeasure := rfl
@[simp] theorem answerRead_tBitEnd (v : Word) (s : State) : (answerRead v s).tBitEnd = s.tBitEnd := rfl
@[simp] theorem answerRead_tBackoff (v : Word) (s : State) : (answerRead v s).tBackoff = s.tBackoff := rfl
@[simp] theorem answerRead_lineOe (v : Word) (s : State) : (answerRead v s).lineOe = s.lineOe := rfl
@[simp] theorem answerRead_lineOut (v : Word) (s : State) : (answerRead v s).lineOut = s.lineOut := rfl
@[simp] theorem answerRead_lineIn (v : Word) (s : State) : (answerRead v s).lineIn = s.lineIn := rfl
@[simp] theorem answerRead_agenda (v : Word) (s : State) : (answerRead v s).agenda = s.agenda := rfl
@[simp] theorem answerRead_freeIdx (v : Word) (s : State) : (answerRead v s).freeIdx = s.freeIdx := rfl
@[simp] theorem answerRead_readData (v : Word) (s : State) : (answerRead v s).readData = v := rfl

/-! One tick counted. -/

@[simp] theorem countTick_x (s : State) : (countTick s).x = s.x := rfl
@[simp] theorem countTick_pc (s : State) : (countTick s).pc = s.pc := rfl
@[simp] theorem countTick_bitIdx (s : State) : (countTick s).bitIdx = s.bitIdx := rfl
@[simp] theorem countTick_elapsed (s : State) : (countTick s).elapsed = s.elapsed + 1#32 := rfl
@[simp] theorem countTick_d (s : State) : (countTick s).d = s.d := rfl
@[simp] theorem countTick_chkCalc (s : State) : (countTick s).chkCalc = s.chkCalc := rfl
@[simp] theorem countTick_chkRecv (s : State) : (countTick s).chkRecv = s.chkRecv := rfl
@[simp] theorem countTick_reason (s : State) : (countTick s).reason = s.reason := rfl
@[simp] theorem countTick_rvalid (s : State) : (countTick s).rvalid = s.rvalid := rfl
@[simp] theorem countTick_rstate (s : State) : (countTick s).rstate = s.rstate := rfl
@[simp] theorem countTick_okIf (s : State) : (countTick s).okIf = s.okIf := rfl
@[simp] theorem countTick_failIf (s : State) : (countTick s).failIf = s.failIf := rfl
@[simp] theorem countTick_okIe (s : State) : (countTick s).okIe = s.okIe := rfl
@[simp] theorem countTick_failIe (s : State) : (countTick s).failIe = s.failIe := rfl
@[simp] theorem countTick_autoRetry (s : State) : (countTick s).autoRetry = s.autoRetry := rfl
@[simp] theorem countTick_startLevel (s : State) : (countTick s).startLevel = s.startLevel := rfl
@[simp] theorem countTick_thresh (s : State) : (countTick s).thresh = s.thresh := rfl
@[simp] theorem countTick_tStartA (s : State) : (countTick s).tStartA = s.tStartA := rfl
@[simp] theorem countTick_tStartB (s : State) : (countTick s).tStartB = s.tStartB := rfl
@[simp] theorem countTick_tSettle (s : State) : (countTick s).tSettle = s.tSettle := rfl
@[simp] theorem countTick_tAck (s : State) : (countTick s).tAck = s.tAck := rfl
@[simp] theorem countTick_tBitStart (s : State) : (countTick s).tBitStart = s.tBitStart := rfl
@[simp] theorem countTick_tMeasure (s : State) : (countTick s).tMeasure = s.tMeasure := rfl
@[simp] theorem countTick_tBitEnd (s : State) : (countTick s).tBitEnd = s.tBitEnd := rfl
@[simp] theorem countTick_tBackoff (s : State) : (countTick s).tBackoff = s.tBackoff := rfl
@[simp] theorem countTick_lineOe (s : State) : (countTick s).lineOe = s.lineOe := rfl
@[simp] theorem countTick_lineOut (s : State) : (countTick s).lineOut = s.lineOut := rfl
@[simp] theorem countTick_lineIn (s : State) : (countTick s).lineIn = s.lineIn := rfl
@[simp] theorem countTick_agenda (s : State) : (countTick s).agenda = s.agenda := rfl
@[simp] theorem countTick_freeIdx (s : State) : (countTick s).freeIdx = s.freeIdx := rfl
@[simp] theorem countTick_readData (s : State) : (countTick s).readData = s.readData := rfl

/-! One free sample. -/

@[simp] theorem takeFreeSample_x (s : State) : (takeFreeSample s).x = s.x := rfl
@[simp] theorem takeFreeSample_pc (s : State) : (takeFreeSample s).pc = s.pc := rfl
@[simp] theorem takeFreeSample_bitIdx (s : State) : (takeFreeSample s).bitIdx = s.bitIdx := rfl
@[simp] theorem takeFreeSample_elapsed (s : State) : (takeFreeSample s).elapsed = s.elapsed := rfl
@[simp] theorem takeFreeSample_d (s : State) : (takeFreeSample s).d = s.d := rfl
@[simp] theorem takeFreeSample_chkCalc (s : State) : (takeFreeSample s).chkCalc = s.chkCalc := rfl
@[simp] theorem takeFreeSample_chkRecv (s : State) : (takeFreeSample s).chkRecv = s.chkRecv := rfl
@[simp] theorem takeFreeSample_reason (s : State) : (takeFreeSample s).reason = s.reason := rfl
@[simp] theorem takeFreeSample_rvalid (s : State) : (takeFreeSample s).rvalid = s.rvalid := rfl
@[simp] theorem takeFreeSample_rstate (s : State) : (takeFreeSample s).rstate = s.rstate := rfl
@[simp] theorem takeFreeSample_okIf (s : State) : (takeFreeSample s).okIf = s.okIf := rfl
@[simp] theorem takeFreeSample_failIf (s : State) : (takeFreeSample s).failIf = s.failIf := rfl
@[simp] theorem takeFreeSample_okIe (s : State) : (takeFreeSample s).okIe = s.okIe := rfl
@[simp] theorem takeFreeSample_failIe (s : State) : (takeFreeSample s).failIe = s.failIe := rfl
@[simp] theorem takeFreeSample_autoRetry (s : State) : (takeFreeSample s).autoRetry = s.autoRetry := rfl
@[simp] theorem takeFreeSample_startLevel (s : State) : (takeFreeSample s).startLevel = s.startLevel := rfl
@[simp] theorem takeFreeSample_thresh (s : State) : (takeFreeSample s).thresh = s.thresh := rfl
@[simp] theorem takeFreeSample_tStartA (s : State) : (takeFreeSample s).tStartA = s.tStartA := rfl
@[simp] theorem takeFreeSample_tStartB (s : State) : (takeFreeSample s).tStartB = s.tStartB := rfl
@[simp] theorem takeFreeSample_tSettle (s : State) : (takeFreeSample s).tSettle = s.tSettle := rfl
@[simp] theorem takeFreeSample_tAck (s : State) : (takeFreeSample s).tAck = s.tAck := rfl
@[simp] theorem takeFreeSample_tBitStart (s : State) : (takeFreeSample s).tBitStart = s.tBitStart := rfl
@[simp] theorem takeFreeSample_tMeasure (s : State) : (takeFreeSample s).tMeasure = s.tMeasure := rfl
@[simp] theorem takeFreeSample_tBitEnd (s : State) : (takeFreeSample s).tBitEnd = s.tBitEnd := rfl
@[simp] theorem takeFreeSample_tBackoff (s : State) : (takeFreeSample s).tBackoff = s.tBackoff := rfl
@[simp] theorem takeFreeSample_lineOe (s : State) : (takeFreeSample s).lineOe = s.lineOe := rfl
@[simp] theorem takeFreeSample_lineOut (s : State) : (takeFreeSample s).lineOut = s.lineOut := rfl
@[simp] theorem takeFreeSample_lineIn (s : State) : (takeFreeSample s).lineIn = Config.lineAt s.freeIdx := rfl
@[simp] theorem takeFreeSample_agenda (s : State) : (takeFreeSample s).agenda = s.agenda := rfl
@[simp] theorem takeFreeSample_freeIdx (s : State) : (takeFreeSample s).freeIdx = s.freeIdx + 1 := rfl
@[simp] theorem takeFreeSample_readData (s : State) : (takeFreeSample s).readData = s.readData := rfl

/-! An attempt begins (44_retry_controller.md R116). -/

@[simp] theorem beginAttempt_x (s : State) : (beginAttempt s).x = Frame.zero := rfl
@[simp] theorem beginAttempt_pc (s : State) : (beginAttempt s).pc = .startA := rfl
@[simp] theorem beginAttempt_bitIdx (s : State) : (beginAttempt s).bitIdx = 0 := rfl
@[simp] theorem beginAttempt_elapsed (s : State) : (beginAttempt s).elapsed = 0#32 := rfl
@[simp] theorem beginAttempt_d (s : State) : (beginAttempt s).d = Frame.zero := rfl
@[simp] theorem beginAttempt_chkCalc (s : State) : (beginAttempt s).chkCalc = 0#8 := rfl
@[simp] theorem beginAttempt_chkRecv (s : State) : (beginAttempt s).chkRecv = 0#8 := rfl
@[simp] theorem beginAttempt_reason (s : State) : (beginAttempt s).reason = .none := rfl
@[simp] theorem beginAttempt_rvalid (s : State) : (beginAttempt s).rvalid = false := rfl
@[simp] theorem beginAttempt_rstate (s : State) : (beginAttempt s).rstate = .acquiring := rfl
@[simp] theorem beginAttempt_okIf (s : State) : (beginAttempt s).okIf = s.okIf := rfl
@[simp] theorem beginAttempt_failIf (s : State) : (beginAttempt s).failIf = s.failIf := rfl
@[simp] theorem beginAttempt_okIe (s : State) : (beginAttempt s).okIe = s.okIe := rfl
@[simp] theorem beginAttempt_failIe (s : State) : (beginAttempt s).failIe = s.failIe := rfl
@[simp] theorem beginAttempt_autoRetry (s : State) : (beginAttempt s).autoRetry = s.autoRetry := rfl
@[simp] theorem beginAttempt_startLevel (s : State) : (beginAttempt s).startLevel = s.startLevel := rfl
@[simp] theorem beginAttempt_thresh (s : State) : (beginAttempt s).thresh = s.thresh := rfl
@[simp] theorem beginAttempt_tStartA (s : State) : (beginAttempt s).tStartA = s.tStartA := rfl
@[simp] theorem beginAttempt_tStartB (s : State) : (beginAttempt s).tStartB = s.tStartB := rfl
@[simp] theorem beginAttempt_tSettle (s : State) : (beginAttempt s).tSettle = s.tSettle := rfl
@[simp] theorem beginAttempt_tAck (s : State) : (beginAttempt s).tAck = s.tAck := rfl
@[simp] theorem beginAttempt_tBitStart (s : State) : (beginAttempt s).tBitStart = s.tBitStart := rfl
@[simp] theorem beginAttempt_tMeasure (s : State) : (beginAttempt s).tMeasure = s.tMeasure := rfl
@[simp] theorem beginAttempt_tBitEnd (s : State) : (beginAttempt s).tBitEnd = s.tBitEnd := rfl
@[simp] theorem beginAttempt_tBackoff (s : State) : (beginAttempt s).tBackoff = s.tBackoff := rfl
@[simp] theorem beginAttempt_lineOe (s : State) : (beginAttempt s).lineOe = true := rfl
@[simp] theorem beginAttempt_lineOut (s : State) : (beginAttempt s).lineOut = s.startLevel := rfl
@[simp] theorem beginAttempt_lineIn (s : State) : (beginAttempt s).lineIn = s.lineIn := rfl
@[simp] theorem beginAttempt_agenda (s : State) : (beginAttempt s).agenda = s.agenda := rfl
@[simp] theorem beginAttempt_freeIdx (s : State) : (beginAttempt s).freeIdx = s.freeIdx := rfl
@[simp] theorem beginAttempt_readData (s : State) : (beginAttempt s).readData = s.readData := rfl

/-! An attempt succeeds (44_retry_controller.md R117). -/

@[simp] theorem succeed_x (s : State) : (succeed s).x = Frame.zero := rfl
@[simp] theorem succeed_pc (s : State) : (succeed s).pc = .idle := rfl
@[simp] theorem succeed_bitIdx (s : State) : (succeed s).bitIdx = 0 := rfl
@[simp] theorem succeed_elapsed (s : State) : (succeed s).elapsed = 0#32 := rfl
@[simp] theorem succeed_d (s : State) : (succeed s).d = s.d := rfl
@[simp] theorem succeed_chkCalc (s : State) : (succeed s).chkCalc = s.chkCalc := rfl
@[simp] theorem succeed_chkRecv (s : State) : (succeed s).chkRecv = s.chkRecv := rfl
@[simp] theorem succeed_reason (s : State) : (succeed s).reason = s.reason := rfl
@[simp] theorem succeed_rvalid (s : State) : (succeed s).rvalid = s.rvalid := rfl
@[simp] theorem succeed_rstate (s : State) : (succeed s).rstate = .success := rfl
@[simp] theorem succeed_okIf (s : State) : (succeed s).okIf = true := rfl
@[simp] theorem succeed_failIf (s : State) : (succeed s).failIf = s.failIf := rfl
@[simp] theorem succeed_okIe (s : State) : (succeed s).okIe = s.okIe := rfl
@[simp] theorem succeed_failIe (s : State) : (succeed s).failIe = s.failIe := rfl
@[simp] theorem succeed_autoRetry (s : State) : (succeed s).autoRetry = s.autoRetry := rfl
@[simp] theorem succeed_startLevel (s : State) : (succeed s).startLevel = s.startLevel := rfl
@[simp] theorem succeed_thresh (s : State) : (succeed s).thresh = s.thresh := rfl
@[simp] theorem succeed_tStartA (s : State) : (succeed s).tStartA = s.tStartA := rfl
@[simp] theorem succeed_tStartB (s : State) : (succeed s).tStartB = s.tStartB := rfl
@[simp] theorem succeed_tSettle (s : State) : (succeed s).tSettle = s.tSettle := rfl
@[simp] theorem succeed_tAck (s : State) : (succeed s).tAck = s.tAck := rfl
@[simp] theorem succeed_tBitStart (s : State) : (succeed s).tBitStart = s.tBitStart := rfl
@[simp] theorem succeed_tMeasure (s : State) : (succeed s).tMeasure = s.tMeasure := rfl
@[simp] theorem succeed_tBitEnd (s : State) : (succeed s).tBitEnd = s.tBitEnd := rfl
@[simp] theorem succeed_tBackoff (s : State) : (succeed s).tBackoff = s.tBackoff := rfl
@[simp] theorem succeed_lineOe (s : State) : (succeed s).lineOe = s.lineOe := rfl
@[simp] theorem succeed_lineOut (s : State) : (succeed s).lineOut = s.lineOut := rfl
@[simp] theorem succeed_lineIn (s : State) : (succeed s).lineIn = s.lineIn := rfl
@[simp] theorem succeed_agenda (s : State) : (succeed s).agenda = s.agenda := rfl
@[simp] theorem succeed_freeIdx (s : State) : (succeed s).freeIdx = s.freeIdx := rfl
@[simp] theorem succeed_readData (s : State) : (succeed s).readData = s.readData := rfl

/-! An attempt fails (44_retry_controller.md R118). -/

@[simp] theorem fail_x (r : Reason) (s : State) : (fail r s).x = Frame.zero := rfl
@[simp] theorem fail_pc (r : Reason) (s : State) : (fail r s).pc = if s.autoRetry then .backoff else .idle := rfl
@[simp] theorem fail_bitIdx (r : Reason) (s : State) : (fail r s).bitIdx = 0 := rfl
@[simp] theorem fail_elapsed (r : Reason) (s : State) : (fail r s).elapsed = 0#32 := rfl
@[simp] theorem fail_d (r : Reason) (s : State) : (fail r s).d = s.d := rfl
@[simp] theorem fail_chkCalc (r : Reason) (s : State) : (fail r s).chkCalc = s.chkCalc := rfl
@[simp] theorem fail_chkRecv (r : Reason) (s : State) : (fail r s).chkRecv = s.chkRecv := rfl
@[simp] theorem fail_reason (r : Reason) (s : State) : (fail r s).reason = r := rfl
@[simp] theorem fail_rvalid (r : Reason) (s : State) : (fail r s).rvalid = s.rvalid := rfl
@[simp] theorem fail_rstate (r : Reason) (s : State) : (fail r s).rstate = .failure := rfl
@[simp] theorem fail_okIf (r : Reason) (s : State) : (fail r s).okIf = s.okIf := rfl
@[simp] theorem fail_failIf (r : Reason) (s : State) : (fail r s).failIf = true := rfl
@[simp] theorem fail_okIe (r : Reason) (s : State) : (fail r s).okIe = s.okIe := rfl
@[simp] theorem fail_failIe (r : Reason) (s : State) : (fail r s).failIe = s.failIe := rfl
@[simp] theorem fail_autoRetry (r : Reason) (s : State) : (fail r s).autoRetry = s.autoRetry := rfl
@[simp] theorem fail_startLevel (r : Reason) (s : State) : (fail r s).startLevel = s.startLevel := rfl
@[simp] theorem fail_thresh (r : Reason) (s : State) : (fail r s).thresh = s.thresh := rfl
@[simp] theorem fail_tStartA (r : Reason) (s : State) : (fail r s).tStartA = s.tStartA := rfl
@[simp] theorem fail_tStartB (r : Reason) (s : State) : (fail r s).tStartB = s.tStartB := rfl
@[simp] theorem fail_tSettle (r : Reason) (s : State) : (fail r s).tSettle = s.tSettle := rfl
@[simp] theorem fail_tAck (r : Reason) (s : State) : (fail r s).tAck = s.tAck := rfl
@[simp] theorem fail_tBitStart (r : Reason) (s : State) : (fail r s).tBitStart = s.tBitStart := rfl
@[simp] theorem fail_tMeasure (r : Reason) (s : State) : (fail r s).tMeasure = s.tMeasure := rfl
@[simp] theorem fail_tBitEnd (r : Reason) (s : State) : (fail r s).tBitEnd = s.tBitEnd := rfl
@[simp] theorem fail_tBackoff (r : Reason) (s : State) : (fail r s).tBackoff = s.tBackoff := rfl
@[simp] theorem fail_lineOe (r : Reason) (s : State) : (fail r s).lineOe = false := rfl
@[simp] theorem fail_lineOut (r : Reason) (s : State) : (fail r s).lineOut = s.lineOut := rfl
@[simp] theorem fail_lineIn (r : Reason) (s : State) : (fail r s).lineIn = s.lineIn := rfl
@[simp] theorem fail_agenda (r : Reason) (s : State) : (fail r s).agenda = s.agenda := rfl
@[simp] theorem fail_freeIdx (r : Reason) (s : State) : (fail r s).freeIdx = s.freeIdx := rfl
@[simp] theorem fail_readData (r : Reason) (s : State) : (fail r s).readData = s.readData := rfl

/-! The checksum pair is recorded. -/

@[simp] theorem recordChecksums_x (s : State) : (recordChecksums s).x = s.x := rfl
@[simp] theorem recordChecksums_pc (s : State) : (recordChecksums s).pc = s.pc := rfl
@[simp] theorem recordChecksums_bitIdx (s : State) : (recordChecksums s).bitIdx = s.bitIdx := rfl
@[simp] theorem recordChecksums_elapsed (s : State) : (recordChecksums s).elapsed = s.elapsed := rfl
@[simp] theorem recordChecksums_d (s : State) : (recordChecksums s).d = s.d := rfl
@[simp] theorem recordChecksums_chkCalc (s : State) : (recordChecksums s).chkCalc = checksum s.x := rfl
@[simp] theorem recordChecksums_chkRecv (s : State) : (recordChecksums s).chkRecv = s.x.b4 := rfl
@[simp] theorem recordChecksums_reason (s : State) : (recordChecksums s).reason = s.reason := rfl
@[simp] theorem recordChecksums_rvalid (s : State) : (recordChecksums s).rvalid = s.rvalid := rfl
@[simp] theorem recordChecksums_rstate (s : State) : (recordChecksums s).rstate = s.rstate := rfl
@[simp] theorem recordChecksums_okIf (s : State) : (recordChecksums s).okIf = s.okIf := rfl
@[simp] theorem recordChecksums_failIf (s : State) : (recordChecksums s).failIf = s.failIf := rfl
@[simp] theorem recordChecksums_okIe (s : State) : (recordChecksums s).okIe = s.okIe := rfl
@[simp] theorem recordChecksums_failIe (s : State) : (recordChecksums s).failIe = s.failIe := rfl
@[simp] theorem recordChecksums_autoRetry (s : State) : (recordChecksums s).autoRetry = s.autoRetry := rfl
@[simp] theorem recordChecksums_startLevel (s : State) : (recordChecksums s).startLevel = s.startLevel := rfl
@[simp] theorem recordChecksums_thresh (s : State) : (recordChecksums s).thresh = s.thresh := rfl
@[simp] theorem recordChecksums_tStartA (s : State) : (recordChecksums s).tStartA = s.tStartA := rfl
@[simp] theorem recordChecksums_tStartB (s : State) : (recordChecksums s).tStartB = s.tStartB := rfl
@[simp] theorem recordChecksums_tSettle (s : State) : (recordChecksums s).tSettle = s.tSettle := rfl
@[simp] theorem recordChecksums_tAck (s : State) : (recordChecksums s).tAck = s.tAck := rfl
@[simp] theorem recordChecksums_tBitStart (s : State) : (recordChecksums s).tBitStart = s.tBitStart := rfl
@[simp] theorem recordChecksums_tMeasure (s : State) : (recordChecksums s).tMeasure = s.tMeasure := rfl
@[simp] theorem recordChecksums_tBitEnd (s : State) : (recordChecksums s).tBitEnd = s.tBitEnd := rfl
@[simp] theorem recordChecksums_tBackoff (s : State) : (recordChecksums s).tBackoff = s.tBackoff := rfl
@[simp] theorem recordChecksums_lineOe (s : State) : (recordChecksums s).lineOe = s.lineOe := rfl
@[simp] theorem recordChecksums_lineOut (s : State) : (recordChecksums s).lineOut = s.lineOut := rfl
@[simp] theorem recordChecksums_lineIn (s : State) : (recordChecksums s).lineIn = s.lineIn := rfl
@[simp] theorem recordChecksums_agenda (s : State) : (recordChecksums s).agenda = s.agenda := rfl
@[simp] theorem recordChecksums_freeIdx (s : State) : (recordChecksums s).freeIdx = s.freeIdx := rfl
@[simp] theorem recordChecksums_readData (s : State) : (recordChecksums s).readData = s.readData := rfl

/-! The frame is published. -/

@[simp] theorem publish_x (s : State) : (publish s).x = s.x := rfl
@[simp] theorem publish_pc (s : State) : (publish s).pc = s.pc := rfl
@[simp] theorem publish_bitIdx (s : State) : (publish s).bitIdx = s.bitIdx := rfl
@[simp] theorem publish_elapsed (s : State) : (publish s).elapsed = s.elapsed := rfl
@[simp] theorem publish_d (s : State) : (publish s).d = s.x := rfl
@[simp] theorem publish_chkCalc (s : State) : (publish s).chkCalc = s.chkCalc := rfl
@[simp] theorem publish_chkRecv (s : State) : (publish s).chkRecv = s.chkRecv := rfl
@[simp] theorem publish_reason (s : State) : (publish s).reason = s.reason := rfl
@[simp] theorem publish_rvalid (s : State) : (publish s).rvalid = true := rfl
@[simp] theorem publish_rstate (s : State) : (publish s).rstate = s.rstate := rfl
@[simp] theorem publish_okIf (s : State) : (publish s).okIf = s.okIf := rfl
@[simp] theorem publish_failIf (s : State) : (publish s).failIf = s.failIf := rfl
@[simp] theorem publish_okIe (s : State) : (publish s).okIe = s.okIe := rfl
@[simp] theorem publish_failIe (s : State) : (publish s).failIe = s.failIe := rfl
@[simp] theorem publish_autoRetry (s : State) : (publish s).autoRetry = s.autoRetry := rfl
@[simp] theorem publish_startLevel (s : State) : (publish s).startLevel = s.startLevel := rfl
@[simp] theorem publish_thresh (s : State) : (publish s).thresh = s.thresh := rfl
@[simp] theorem publish_tStartA (s : State) : (publish s).tStartA = s.tStartA := rfl
@[simp] theorem publish_tStartB (s : State) : (publish s).tStartB = s.tStartB := rfl
@[simp] theorem publish_tSettle (s : State) : (publish s).tSettle = s.tSettle := rfl
@[simp] theorem publish_tAck (s : State) : (publish s).tAck = s.tAck := rfl
@[simp] theorem publish_tBitStart (s : State) : (publish s).tBitStart = s.tBitStart := rfl
@[simp] theorem publish_tMeasure (s : State) : (publish s).tMeasure = s.tMeasure := rfl
@[simp] theorem publish_tBitEnd (s : State) : (publish s).tBitEnd = s.tBitEnd := rfl
@[simp] theorem publish_tBackoff (s : State) : (publish s).tBackoff = s.tBackoff := rfl
@[simp] theorem publish_lineOe (s : State) : (publish s).lineOe = s.lineOe := rfl
@[simp] theorem publish_lineOut (s : State) : (publish s).lineOut = s.lineOut := rfl
@[simp] theorem publish_lineIn (s : State) : (publish s).lineIn = s.lineIn := rfl
@[simp] theorem publish_agenda (s : State) : (publish s).agenda = s.agenda := rfl
@[simp] theorem publish_freeIdx (s : State) : (publish s).freeIdx = s.freeIdx := rfl
@[simp] theorem publish_readData (s : State) : (publish s).readData = s.readData := rfl

end Sys2Proof.Machine
end

