-- ==== Sys2Proof/Laws/Frames.lean ====
section
/-! SUPPORT. Frames bit by bit: what packing one bit does to each of the forty positions (42_bit_sampler.md R104). -/

namespace Sys2Proof.Machine

@[simp] theorem frameGet_frameSet_same (f : Frame) (k : Fin 5) (v : Byte) : frameGet (frameSet f k v) k = v := by
  fin_cases k <;> rfl

theorem frameGet_frameSet_other (f : Frame) {k j : Fin 5} (v : Byte) (h : j ≠ k) :
    frameGet (frameSet f k v) j = frameGet f j := by
  fin_cases k <;> fin_cases j <;> first | rfl | exact absurd rfl h

theorem byteWithBit_same (v : Byte) {k : Nat} (b : Bool) (h : k < 8) : (byteWithBit v k b).getLsbD k = b := by
  cases b <;> simp [byteWithBit, h]

theorem byteWithBit_other (v : Byte) {k j : Nat} (b : Bool) (h : j ≠ k) :
    (byteWithBit v k b).getLsbD j = v.getLsbD j := by
  cases b
  · simp only [byteWithBit, Bool.false_eq_true, if_false, BitVec.getLsbD_and, BitVec.getLsbD_not, BitVec.getLsbD_shiftLeft, BitVec.getLsbD_one]
    by_cases hj : j < 8
    · have : decide (j < k) = true ∨ decide (j - k = 0) = false := by
        rcases Nat.lt_or_ge j k with h1 | h1
        · exact Or.inl (by simpa using h1)
        · exact Or.inr (by simp; omega)
      rcases this with h1 | h1 <;> simp [h1, hj]
    · simp [BitVec.getLsbD_of_ge _ _ (Nat.le_of_not_lt hj)]
  · simp only [byteWithBit, if_true, BitVec.getLsbD_or, BitVec.getLsbD_shiftLeft, BitVec.getLsbD_one]
    rcases Nat.lt_or_ge j k with h1 | h1
    · simp [h1]
    · have : ¬ (j - k = 0) := by omega
      simp [this]

theorem bitPosition_lt (i : Fin 40) : bitPosition i < 8 := by unfold bitPosition; omega

/-- A position is its byte and its bit in that byte. -/
theorem position_ext {i j : Fin 40} (hb : byteIndex i = byteIndex j) (hp : bitPosition i = bitPosition j) : i = j := by
  have h1 : i.val / 8 = j.val / 8 := congrArg Fin.val hb
  have h2 : 7 - i.val % 8 = 7 - j.val % 8 := hp
  omega

@[simp] theorem frameBit_pack_same (f : Frame) (i : Fin 40) (b : Bool) : frameBit (pack f i b) i = b := by
  simp [frameBit, pack, frameGet_frameSet_same, byteWithBit_same _ _ (bitPosition_lt i)]

theorem frameBit_pack_other (f : Frame) {i j : Fin 40} (b : Bool) (h : j ≠ i) :
    frameBit (pack f i b) j = frameBit f j := by
  unfold frameBit pack
  by_cases hb : byteIndex j = byteIndex i
  · rw [hb, frameGet_frameSet_same, byteWithBit_other _ _ (fun hp => h (position_ext hb hp))]
  · rw [frameGet_frameSet_other _ _ hb]

@[simp] theorem frameBit_zero (i : Fin 40) : frameBit Frame.zero i = false := by
  revert i; decide

theorem frameGet_ext {f g : Frame} (h : ∀ k, frameGet f k = frameGet g k) : f = g :=
  Frame.ext (h 0) (h 1) (h 2) (h 3) (h 4)

theorem frame_ext_bits {f g : Frame} (h : ∀ i, frameBit f i = frameBit g i) : f = g := by
  apply frameGet_ext
  intro k
  apply BitVec.eq_of_getLsbD_eq
  intro j hj
  have := h ⟨8 * k.val + (7 - j), by omega⟩
  have e1 : byteIndex ⟨8 * k.val + (7 - j), by omega⟩ = k := Fin.ext (by show (8 * k.val + (7 - j)) / 8 = k.val; omega)
  have e2 : bitPosition ⟨8 * k.val + (7 - j), by omega⟩ = j := by show 7 - (8 * k.val + (7 - j)) % 8 = j; omega
  simpa only [frameBit, e1, e2] using this
end Sys2Proof.Machine
end

