-- ==== Sys2Proof/Laws/Ops.lean ====
section
/-! SUPPORT. What each shared operation can do, once: WAIT and HOLD, register accesses, the configuration they keep. -/

namespace Sys2Proof.Machine

section WaitAndHold

variable {target : Level} {t : Ticks} {r : Reason} {f : Word → State → State} {g : State → State} {s : State}

theorem waitPhase_done (h : s.lineIn = target) : waitPhase target t r f s = f s.elapsed s := by
  simp [waitPhase, waitResult, h]

theorem waitPhase_timeout (h : s.lineIn ≠ target) (ht : t.toNat < s.elapsed.toNat) :
    waitPhase target t r f s = fail r s := by
  simp [waitPhase, waitResult, h, ht]

theorem waitPhase_continue (h : s.lineIn ≠ target) (ht : s.elapsed.toNat ≤ t.toNat) :
    waitPhase target t r f s = countTick s := by
  simp [waitPhase, waitResult, h, Nat.not_lt.mpr ht]

/-- The three results of a wait phase (40_levelwaiter.md R80). -/
theorem waitPhase_cases :
    (s.lineIn = target ∧ waitPhase target t r f s = f s.elapsed s) ∨
    (s.lineIn ≠ target ∧ t.toNat < s.elapsed.toNat ∧ waitPhase target t r f s = fail r s) ∨
    (s.lineIn ≠ target ∧ s.elapsed.toNat ≤ t.toNat ∧ waitPhase target t r f s = countTick s) := by
  by_cases h : s.lineIn = target
  · exact .inl ⟨h, waitPhase_done h⟩
  · rcases Nat.lt_or_ge t.toNat s.elapsed.toNat with ht | ht
    · exact .inr (.inl ⟨h, ht, waitPhase_timeout h ht⟩)
    · exact .inr (.inr ⟨h, ht, waitPhase_continue h ht⟩)

theorem holdPhase_expired (h : t.toNat ≤ (s.elapsed + 1#32).toNat) :
    holdPhase t g s = g { s with elapsed := 0#32 } := by
  rw [holdPhase, holdResult, if_pos h]

theorem holdPhase_continue (h : (s.elapsed + 1#32).toNat < t.toNat) : holdPhase t g s = countTick s := by
  rw [holdPhase, holdResult, if_neg (Nat.not_le.mpr h)]

/-- The two results of a hold phase (40_levelwaiter.md R81). -/
theorem holdPhase_cases :
    (t.toNat ≤ (s.elapsed + 1#32).toNat ∧ holdPhase t g s = g { s with elapsed := 0#32 }) ∨
    ((s.elapsed + 1#32).toNat < t.toNat ∧ holdPhase t g s = countTick s) := by
  rcases Nat.lt_or_ge (s.elapsed + 1#32).toNat t.toNat with h | h
  · exact .inr ⟨h, holdPhase_continue h⟩
  · exact .inl ⟨h, holdPhase_expired h⟩

end WaitAndHold

theorem storeWhenIdle_idle {store : Word → State → State} {v : Word} {s : State} (h : s.pc = .idle) :
    storeWhenIdle store v s = store v s := by simp [storeWhenIdle, h]

theorem storeWhenIdle_busy {store : Word → State → State} {v : Word} {s : State} (h : s.pc ≠ .idle) :
    storeWhenIdle store v s = s := by simp [storeWhenIdle, h]

/-- What holds of every phase's own rule in that phase holds of a tick (00_scope.md R6). -/
theorem tickPhase_elim {P : State → Prop} {s : State} (idle : s.pc = .idle → P s)
    (startA : s.pc = .startA → P (tickStartA s)) (startB : s.pc = .startB → P (tickStartB s))
    (settle : s.pc = .settle → P (tickSettle s)) (ackA : s.pc = .ackA → P (tickAckA s))
    (ackB : s.pc = .ackB → P (tickAckB s)) (ackC : s.pc = .ackC → P (tickAckC s))
    (bitStart : s.pc = .bitStart → P (tickBitStart s)) (bitMeasure : s.pc = .bitMeasure → P (tickBitMeasure s))
    (bitEnd : s.pc = .bitEnd → P (tickBitEnd s)) (validate : s.pc = .validate → P (tickValidate s))
    (backoff : s.pc = .backoff → P (tickBackoff s)) : P (tickPhase s) := by
  unfold tickPhase
  cases hp : s.pc with
  | idle => exact idle hp
  | startA => exact startA hp
  | startB => exact startB hp
  | settle => exact settle hp
  | ackA => exact ackA hp
  | ackB => exact ackB hp
  | ackC => exact ackC hp
  | bitStart => exact bitStart hp
  | bitMeasure => exact bitMeasure hp
  | bitEnd => exact bitEnd hp
  | validate => exact validate hp
  | backoff => exact backoff hp

/-- Everything a tick can make of a state, the sample being in `lineIn` (44_retry_controller.md R122): nothing, a count, the
end of a hold, the end of a wait at its level, a timeout, the two outcomes of a validation. -/
inductive TickOutcome (s : State) : State → Prop
  | idles (hp : s.pc = .idle) : TickOutcome s s
  | counts (hi : s.pc ≠ .idle) (hv : s.pc ≠ .validate) : TickOutcome s (countTick s)
  | drivesOpposite (hp : s.pc = .startA) :
      TickOutcome s { s with elapsed := 0#32, lineOut := s.startLevel.opposite, pc := .startB }
  | releases (hp : s.pc = .startB) : TickOutcome s { s with elapsed := 0#32, lineOe := false, pc := .settle }
  | settles (hp : s.pc = .settle) : TickOutcome s { s with elapsed := 0#32, pc := .ackA }
  | retries (hp : s.pc = .backoff) (ht : s.tBackoff.toNat ≤ (s.elapsed + 1#32).toNat) : TickOutcome s (beginAttempt s)
  | ackASeen (hp : s.pc = .ackA) (hl : s.lineIn = .low) : TickOutcome s { s with elapsed := 0#32, pc := .ackB }
  | ackBSeen (hp : s.pc = .ackB) (hl : s.lineIn = .high) : TickOutcome s { s with elapsed := 0#32, pc := .ackC }
  | ackCSeen (hp : s.pc = .ackC) (hl : s.lineIn = .low) : TickOutcome s { s with elapsed := 0#32, pc := .bitStart }
  | bitRises (hp : s.pc = .bitStart) (hl : s.lineIn = .high) :
      TickOutcome s { s with elapsed := 1#32, pc := .bitMeasure }
  | bitMeasured (hp : s.pc = .bitMeasure) (hl : s.lineIn = .low) :
      TickOutcome s
        { s with x := pack s.x s.bitIdx (classify s.elapsed s.thresh), elapsed := 0#32, pc := .bitEnd }
  | bitEnds (hp : s.pc = .bitEnd) (hl : s.lineIn = .low) : TickOutcome s (endBit s)
  | timesOut (r : Reason) (hp : waitPhaseOf s.pc) (hr : r ≠ .none) (hc : r ≠ .checksumMismatch) :
      TickOutcome s (fail r s)
  | validates (hp : s.pc = .validate) (hs : checksum s.x = s.x.b4) :
      TickOutcome s (succeed (publish (recordChecksums s)))
  | mismatches (hp : s.pc = .validate) (hs : checksum s.x ≠ s.x.b4) :
      TickOutcome s (fail .checksumMismatch (recordChecksums s))

theorem TickOutcome.of_hold {s : State} {t : Ticks} {g : State → State} (hi : s.pc ≠ .idle) (hv : s.pc ≠ .validate)
    (hg : t.toNat ≤ (s.elapsed + 1#32).toNat → TickOutcome s (g { s with elapsed := 0#32 })) :
    TickOutcome s (holdPhase t g s) := by
  rcases holdPhase_cases (t := t) (g := g) (s := s) with ⟨h, k⟩ | ⟨_, k⟩ <;> rw [k]
  · exact hg h
  · exact .counts hi hv

theorem TickOutcome.of_wait {s : State} {target : Level} {t : Ticks} {r : Reason} {f : Word → State → State}
    (hp : waitPhaseOf s.pc) (hr : r ≠ .none) (hc : r ≠ .checksumMismatch)
    (hf : s.lineIn = target → TickOutcome s (f s.elapsed s)) : TickOutcome s (waitPhase target t r f s) := by
  rcases waitPhase_cases (target := target) (t := t) (r := r) (f := f) (s := s) with
    ⟨h, k⟩ | ⟨_, _, k⟩ | ⟨_, _, k⟩ <;> rw [k]
  · exact hf h
  · exact .timesOut r hp hr hc
  · exact .counts (by rintro h; simp [waitPhaseOf, h] at hp) (by rintro h; simp [waitPhaseOf, h] at hp)

theorem tickPhase_outcome (s : State) : TickOutcome s (tickPhase s) := by
  refine tickPhase_elim (idle := .idles) (startA := fun hp => ?startA) (startB := fun hp => ?startB)
    (settle := fun hp => ?settle) (ackA := fun hp => ?ackA) (ackB := fun hp => ?ackB) (ackC := fun hp => ?ackC)
    (bitStart := fun hp => ?bitStart) (bitMeasure := fun hp => ?bitMeasure) (bitEnd := fun hp => ?bitEnd)
    (validate := fun hp => ?validate) (backoff := fun hp => ?backoff)
  case startA => exact .of_hold (by simp [hp]) (by simp [hp]) fun _ => .drivesOpposite hp
  case startB => exact .of_hold (by simp [hp]) (by simp [hp]) fun _ => .releases hp
  case settle => exact .of_hold (by simp [hp]) (by simp [hp]) fun _ => .settles hp
  case ackA => exact .of_wait (by simp [waitPhaseOf, hp]) (by decide) (by decide) (.ackASeen hp)
  case ackB => exact .of_wait (by simp [waitPhaseOf, hp]) (by decide) (by decide) (.ackBSeen hp)
  case ackC => exact .of_wait (by simp [waitPhaseOf, hp]) (by decide) (by decide) (.ackCSeen hp)
  case bitStart => exact .of_wait (by simp [waitPhaseOf, hp]) (by decide) (by decide) (.bitRises hp)
  case bitMeasure => exact .of_wait (by simp [waitPhaseOf, hp]) (by decide) (by decide) (.bitMeasured hp)
  case bitEnd => exact .of_wait (by simp [waitPhaseOf, hp]) (by decide) (by decide) (.bitEnds hp)
  case validate =>
    unfold tickValidate
    split
    next h => exact .validates hp h
    next h => exact .mismatches hp h
  case backoff => exact .of_hold (by simp [hp]) (by simp [hp]) (.retries hp)

section KeepsConfig

variable {target : Level} {t : Ticks} {r : Reason} {f : Word → State → State} {g : State → State} {s : State}

theorem waitPhase_config (hf : ∀ e u, SameConfig u (f e u)) : SameConfig s (waitPhase target t r f s) := by
  rcases waitPhase_cases (target := target) (t := t) (r := r) (f := f) (s := s) with
    ⟨_, h⟩ | ⟨_, _, h⟩ | ⟨_, _, h⟩ <;> rw [h]
  · exact hf _ _
  · rfl
  · rfl

theorem holdPhase_config (hg : ∀ u, SameConfig u (g u)) : SameConfig s (holdPhase t g s) := by
  rcases holdPhase_cases (t := t) (g := g) (s := s) with ⟨_, h⟩ | ⟨_, h⟩ <;> rw [h]
  · exact hg { s with elapsed := 0#32 }
  · rfl

end KeepsConfig

theorem tickValidate_config (s : State) : SameConfig s (tickValidate s) := by unfold tickValidate; split <;> rfl

theorem endBit_config (s : State) : SameConfig s (endBit s) := by unfold endBit; split <;> rfl

/-- The engine writes no configuration register (10_state.md section 8). -/
theorem tickPhase_config (s : State) : SameConfig s (tickPhase s) :=
  tickPhase_elim (P := SameConfig s)
    (idle := fun _ => rfl)
    (startA := fun _ => holdPhase_config fun _ => rfl)
    (startB := fun _ => holdPhase_config fun _ => rfl)
    (settle := fun _ => holdPhase_config fun _ => rfl)
    (ackA := fun _ => waitPhase_config fun _ _ => rfl)
    (ackB := fun _ => waitPhase_config fun _ _ => rfl)
    (ackC := fun _ => waitPhase_config fun _ _ => rfl)
    (bitStart := fun _ => waitPhase_config fun _ _ => rfl)
    (bitMeasure := fun _ => waitPhase_config fun _ _ => rfl)
    (bitEnd := fun _ => waitPhase_config fun _ u => endBit_config u)
    (validate := fun _ => tickValidate_config s)
    (backoff := fun _ => holdPhase_config fun _ => rfl)

end Sys2Proof.Machine
end

