-- ==== Sys2Proof/Laws/Runs.lean ====
section
/-! SUPPORT. Runs of ticks over lists of samples: what holds along them, and how long the hold and wait phases last. -/

namespace Sys2Proof.Machine

@[simp] theorem runSamples_nil (s : State) : runSamples [] s = s := rfl

@[simp] theorem runSamples_cons (l : Level) (ls : List Level) (s : State) :
    runSamples (l :: ls) s = runSamples ls (engineTick l s) := rfl

theorem runSamples_append (ls ms : List Level) (s : State) :
    runSamples (ls ++ ms) s = runSamples ms (runSamples ls s) := by
  induction ls generalizing s with
  | nil => rfl
  | cons l ls ih => exact ih (engineTick l s)

/-- What every tick keeps, a run of ticks keeps. -/
theorem runSamples_keeps {P : State → Prop} (tick : ∀ l s, P s → P (engineTick l s)) (ls : List Level) {s : State}
    (h : P s) : P (runSamples ls s) := by
  induction ls generalizing s with
  | nil => exact h
  | cons l ls ih => exact ih (tick l s h)

theorem engineTick_config (l : Level) (s : State) : SameConfig s (engineTick l s) :=
  tickPhase_config (sampleLine l s)

theorem runSamples_config (ls : List Level) (s : State) : SameConfig s (runSamples ls s) :=
  runSamples_keeps (P := SameConfig s) (fun l t h => Eq.trans h (engineTick_config l t)) ls rfl

/-- A tick neither reads nor writes what lies outside the block: the agenda, the count of free samples, the host's copy of
the last read. -/
theorem engineTick_outer (l : Level) (s : State) (a : List Event) (n : Nat) (r : Word) :
    engineTick l { s with agenda := a, freeIdx := n, readData := r } =
      { engineTick l s with agenda := a, freeIdx := n, readData := r } := by
  unfold engineTick tickPhase sampleLine
  cases s.pc <;>
    simp only [tickIdle, tickStartA, tickStartB, tickSettle, tickAckA, tickAckB, tickAckC, tickBitStart, tickBitMeasure,
      tickBitEnd, endBit, tickValidate, tickBackoff, holdPhase, waitPhase, recordChecksums]
  all_goals repeat' split
  all_goals rfl

theorem runSamples_outer (ls : List Level) (s : State) (a : List Event) (n : Nat) (r : Word) :
    runSamples ls { s with agenda := a, freeIdx := n, readData := r } =
      { runSamples ls s with agenda := a, freeIdx := n, readData := r } := by
  induction ls generalizing s with
  | nil => rfl
  | cons l ls ih => rw [runSamples_cons, engineTick_outer, ih, runSamples_cons]

/-- Samples are ignored in IDLE (44_retry_controller.md R120). -/
theorem engineTick_idle {l : Level} {s : State} (h : s.pc = .idle) : engineTick l s = sampleLine l s := by
  simp [engineTick, tickPhase, h, tickIdle]

theorem tickPhase_startA (s : State) (h : s.pc = .startA) : tickPhase s = tickStartA s := by simp [tickPhase, h]

theorem tickPhase_startB (s : State) (h : s.pc = .startB) : tickPhase s = tickStartB s := by simp [tickPhase, h]

theorem tickPhase_settle (s : State) (h : s.pc = .settle) : tickPhase s = tickSettle s := by simp [tickPhase, h]

theorem tickPhase_ackA (s : State) (h : s.pc = .ackA) : tickPhase s = tickAckA s := by simp [tickPhase, h]

theorem tickPhase_ackB (s : State) (h : s.pc = .ackB) : tickPhase s = tickAckB s := by simp [tickPhase, h]

theorem tickPhase_ackC (s : State) (h : s.pc = .ackC) : tickPhase s = tickAckC s := by simp [tickPhase, h]

theorem tickPhase_bitStart (s : State) (h : s.pc = .bitStart) : tickPhase s = tickBitStart s := by simp [tickPhase, h]

theorem tickPhase_bitMeasure (s : State) (h : s.pc = .bitMeasure) : tickPhase s = tickBitMeasure s := by
  simp [tickPhase, h]

theorem tickPhase_bitEnd (s : State) (h : s.pc = .bitEnd) : tickPhase s = tickBitEnd s := by simp [tickPhase, h]

theorem tickPhase_backoff (s : State) (h : s.pc = .backoff) : tickPhase s = tickBackoff s := by simp [tickPhase, h]

theorem add_one_toNat {w : Word} (h : w.toNat < 2 ^ 31) : (w + 1#32).toNat = w.toNat + 1 := by
  simp only [BitVec.toNat_add, BitVec.toNat_ofNat]
  omega

theorem lastSample_cons (l m : Level) (ls : List Level) : lastSample (l :: ls) m = lastSample ls l := by
  simp [lastSample, List.getLast?_cons]

theorem lastSample_replicate (n : Nat) (l : Level) : lastSample (List.replicate n l) l = l := by
  induction n with
  | zero => rfl
  | succ n ih => rw [List.replicate_succ, lastSample_cons, ih]

/-- A run of samples that only count: the phase, and everything but the accumulator and the sample, stands
(40_levelwaiter.md R80, R81). -/
theorem runSamples_counts {P : State → Level → Prop}
    (tick : ∀ s l, P s l → engineTick l s = countTick (sampleLine l s)) :
    ∀ (ls : List Level) (s : State),
      (∀ j (hj : j < ls.length) m, P { s with elapsed := s.elapsed + BitVec.ofNat 32 j, lineIn := m } ls[j]) →
      runSamples ls s =
        { s with elapsed := s.elapsed + BitVec.ofNat 32 ls.length, lineIn := lastSample ls s.lineIn } := by
  intro ls
  induction ls with
  | nil =>
    intro s _
    simp [lastSample]
  | cons l ls ih =>
    intro s hP
    have h0 := hP 0 (by simp) s.lineIn
    simp only [BitVec.add_zero, List.getElem_cons_zero] at h0
    rw [runSamples_cons, tick s l h0, ih]
    · have e : s.elapsed + 1#32 + BitVec.ofNat 32 ls.length = s.elapsed + BitVec.ofNat 32 (ls.length + 1) := by
        rw [BitVec.add_assoc, ← BitVec.ofNat_add, Nat.add_comm]
      simp only [countTick_elapsed, sampleLine_elapsed, countTick_lineIn, sampleLine_lineIn, List.length_cons,
        lastSample_cons, e]
      rfl
    · intro j hj m
      have h1 := hP (j + 1) (by simpa using hj) m
      have e : s.elapsed + 1#32 + BitVec.ofNat 32 j = s.elapsed + BitVec.ofNat 32 (j + 1) := by
        rw [BitVec.add_assoc, ← BitVec.ofNat_add, Nat.add_comm]
      simp only [List.getElem_cons_succ] at h1
      simp only [countTick_elapsed, sampleLine_elapsed, e]
      exact h1

/-- A wait phase counts through samples that differ from its target for as long as its budget lasts
(40_levelwaiter.md R80). -/
theorem runSamples_wait {p : Phase} {target : Level} {budget : State → Ticks} {r : Reason} {f : Word → State → State}
    (isWait : ∀ s, s.pc = p → tickPhase s = waitPhase target (budget s) r f s)
    (fixed : ∀ s e m, budget { s with elapsed := e, lineIn := m } = budget s)
    {s : State} (hp : s.pc = p) (ls : List Level) (hl : ∀ l ∈ ls, l ≠ target)
    (hn : s.elapsed.toNat + ls.length ≤ (budget s).toNat + 1) :
    runSamples ls s =
      { s with elapsed := s.elapsed + BitVec.ofNat 32 ls.length, lineIn := lastSample ls s.lineIn } := by
  have hb : (budget s).toNat < 2 ^ 24 := (budget s).isLt
  refine runSamples_counts
    (P := fun t l => t.pc = p ∧ l ≠ target ∧ budget t = budget s ∧ t.elapsed.toNat ≤ (budget s).toNat) ?_ ls s ?_
  · rintro t l ⟨h1, h2, h3, h4⟩
    have e : budget (sampleLine l t) = budget s := (fixed t t.elapsed l).trans h3
    rw [engineTick, isWait _ (show (sampleLine l t).pc = p from h1)]
    exact waitPhase_continue h2 (by rw [e]; exact h4)
  · intro j hj m
    refine ⟨hp, hl _ (List.getElem_mem hj), fixed s _ m, ?_⟩
    show (s.elapsed + BitVec.ofNat 32 j).toNat ≤ _
    rw [BitVec.toNat_add, BitVec.toNat_ofNat]
    omega

/-- A sample at the target ends a wait phase (40_levelwaiter.md R80). -/
theorem engineTick_done {p : Phase} {target : Level} {budget : State → Ticks} {r : Reason} {f : Word → State → State}
    (isWait : ∀ s, s.pc = p → tickPhase s = waitPhase target (budget s) r f s) {s : State} (hp : s.pc = p) :
    engineTick target s = f s.elapsed (sampleLine target s) := by
  rw [engineTick, isWait _ (show (sampleLine target s).pc = p from hp)]
  exact waitPhase_done rfl

/-- A sample off the target ends a wait phase whose budget is spent (40_levelwaiter.md R80). -/
theorem engineTick_timeout {p : Phase} {target : Level} {budget : State → Ticks} {r : Reason}
    {f : Word → State → State} (isWait : ∀ s, s.pc = p → tickPhase s = waitPhase target (budget s) r f s)
    (fixed : ∀ s e m, budget { s with elapsed := e, lineIn := m } = budget s) {s : State} (hp : s.pc = p) {l : Level}
    (hl : l ≠ target) (h : (budget s).toNat < s.elapsed.toNat) : engineTick l s = fail r (sampleLine l s) := by
  rw [engineTick, isWait _ (show (sampleLine l s).pc = p from hp)]
  exact waitPhase_timeout hl (by rw [show budget (sampleLine l s) = budget s from fixed s s.elapsed l]; exact h)

/-- The tick at which a hold phase's time is up (40_levelwaiter.md R81). -/
theorem engineTick_expired {p : Phase} {time : State → Ticks} {g : State → State}
    (isHold : ∀ s, s.pc = p → tickPhase s = holdPhase (time s) g s)
    (fixed : ∀ s e m, time { s with elapsed := e, lineIn := m } = time s) {s : State} (hp : s.pc = p) {l : Level}
    (h : (time s).toNat ≤ (s.elapsed + 1#32).toNat) :
    engineTick l s = g { s with elapsed := 0#32, lineIn := l } := by
  rw [engineTick, isHold _ (show (sampleLine l s).pc = p from hp)]
  exact holdPhase_expired (by rw [show time (sampleLine l s) = time s from fixed s s.elapsed l]; exact h)

/-- A hold phase counts through any samples until its time is up (40_levelwaiter.md R81). -/
theorem runSamples_hold {p : Phase} {time : State → Ticks} {g : State → State}
    (isHold : ∀ s, s.pc = p → tickPhase s = holdPhase (time s) g s)
    (fixed : ∀ s e m, time { s with elapsed := e, lineIn := m } = time s)
    {s : State} (hp : s.pc = p) (ls : List Level) (hn : s.elapsed.toNat + ls.length < max (time s).toNat (s.elapsed.toNat + 1)) :
    runSamples ls s =
      { s with elapsed := s.elapsed + BitVec.ofNat 32 ls.length, lineIn := lastSample ls s.lineIn } := by
  have hb : (time s).toNat < 2 ^ 24 := (time s).isLt
  refine runSamples_counts
    (P := fun t _ => t.pc = p ∧ time t = time s ∧ (t.elapsed + 1#32).toNat < (time s).toNat) ?_ ls s ?_
  · rintro t l ⟨h1, h2, h3⟩
    have e : time (sampleLine l t) = time s := (fixed t t.elapsed l).trans h2
    rw [engineTick, isHold _ (show (sampleLine l t).pc = p from h1)]
    exact holdPhase_continue (by rw [e]; exact h3)
  · intro j hj m
    refine ⟨hp, fixed s _ m, ?_⟩
    show (s.elapsed + BitVec.ofNat 32 j + 1#32).toNat < _
    rw [BitVec.toNat_add, BitVec.toNat_add, BitVec.toNat_ofNat, BitVec.toNat_ofNat]
    omega

/-- The two Low samples after a pulse: the first classifies and packs the bit, the second ends it
(42_bit_sampler.md R101, R102). -/
theorem runSamples_endPulse {s : State} (hp : s.pc = .bitMeasure) :
    runSamples [.low, .low] s =
      endBit { s with
        x := pack s.x s.bitIdx (classify s.elapsed s.thresh)
        elapsed := 0#32
        pc := .bitEnd
        lineIn := .low } := by
  show engineTick .low (engineTick .low s) = _
  rw [engineTick_done tickPhase_bitMeasure hp]
  exact engineTick_done tickPhase_bitEnd rfl

/-- What one symbol does to an engine that waits for a bit's rise: the bit is classified and packed, and the engine waits
for the next bit, or validates after the last (42_bit_sampler.md R100 to R104). -/
theorem receiveSymbol_bitStart {s : State} {gap width : Nat} (hp : s.pc = .bitStart) (he : s.elapsed = 0#32)
    (hg : gap ≤ s.tBitStart.toNat + 1) (h1 : 1 ≤ width) (hw : width ≤ s.tMeasure.toNat + 1) :
    receiveSymbol gap width s =
      endBit { s with
        x := pack s.x s.bitIdx (decide (s.thresh.toNat < width))
        elapsed := 0#32
        pc := .bitEnd
        lineIn := .low } := by
  have hm : s.tMeasure.toNat < 2 ^ 24 := s.tMeasure.isLt
  obtain ⟨w, rfl⟩ : ∃ w, width = w + 1 := ⟨width - 1, by omega⟩
  have gapRun := runSamples_wait tickPhase_bitStart (fun _ _ _ => rfl) hp (List.replicate gap .low) (by simp)
    (by simpa [he] using hg)
  have rise (e : Word) (l : Level) := engineTick_done tickPhase_bitStart (s := { s with elapsed := e, lineIn := l }) hp
  have pulseFits : (1#32).toNat + (List.replicate w Level.high).length ≤ s.tMeasure.toNat + 1 := by
    rw [List.length_replicate, show (1#32).toNat = 1 from rfl]
    omega
  unfold receiveSymbol symbolSamples
  rw [runSamples_append, runSamples_append, gapRun, List.replicate_succ, runSamples_cons (ls := List.replicate w _),
    rise, runSamples_wait tickPhase_bitMeasure (fun _ _ _ => rfl) rfl (List.replicate w .high)
      (fun l h => by simp [List.eq_of_mem_replicate h]) pulseFits,
    runSamples_endPulse (by rfl)]
  have e : (1#32 + BitVec.ofNat 32 w).toNat = w + 1 := by
    rw [BitVec.toNat_add, BitVec.toNat_ofNat, BitVec.toNat_ofNat]
    omega
  simp only [List.length_replicate, classify, e]
  rfl

end Sys2Proof.Machine
end

