-- ==== Sys2Proof/Laws/Step.lean ====
section
/-! SUPPORT. What one step can do, once: `step_cases` is the inversion every statement about `step` starts from. -/

namespace Sys2Proof.Machine

/-- `exec` of the phase `pc` holds is the engine's tick. -/
theorem exec_phaseCode (s : State) : exec (decodePhase (phaseCode s.pc)) s = .next (tickPhase s) := by
  unfold tickPhase
  cases h : s.pc <;> rfl

theorem exec_phaseCode_of {p : Phase} {s : State} (h : s.pc = p) :
    exec (decodePhase (phaseCode p)) s = .next (tickPhase s) := h ▸ exec_phaseCode s

theorem accessError_none {addr n : Nat} : accessError addr n = none ↔ portAccess addr n := by
  unfold accessError portAccess
  repeat' split
  all_goals simp_all

/-- A slot's access, through the register map (20_memory.md R41). -/
theorem exec_decodeSlot_read {addr : Nat} (ha : addr % 4 = 0) (hb : addr ≤ 0xFC) (s : State) :
    exec (decodeSlot (addr / 4) .read) s = .next (answerRead (readRegister addr s) s) := by
  obtain ⟨k, rfl⟩ : ∃ k, addr = 4 * k := ⟨addr / 4, by omega⟩
  have hk : k < 64 := by omega
  rw [Nat.mul_div_cancel_left k (by decide)]
  interval_cases k <;> rfl

theorem exec_decodeCmd (v : Word) (s : State) : exec (decodeCmd v) s = .next (commandWrite v s) := by
  unfold decodeCmd commandWrite
  repeat' split
  all_goals rfl

theorem exec_decodeSlot_write {addr : Nat} (ha : addr % 4 = 0) (hb : addr ≤ 0xFC) (v : Word) (s : State) :
    exec (decodeSlot (addr / 4) (.write v)) s = .next (writeRegister addr v s) := by
  obtain ⟨k, rfl⟩ : ∃ k, addr = 4 * k := ⟨addr / 4, by omega⟩
  have hk : k < 64 := by omega
  rw [Nat.mul_div_cancel_left k (by decide)]
  rcases Nat.eq_zero_or_pos k with rfl | hp
  · exact exec_decodeCmd v s
  · interval_cases k <;> rfl

section OneStep

variable {s : State} {rest : List Event}

theorem step_free (h : s.agenda = []) : step s = .next (tickPhase (takeFreeSample s)) := by
  have := exec_phaseCode_of (p := s.pc) (s := takeFreeSample s) rfl
  simpa [step, fetch, h, decode] using this

theorem step_tick {l : Level} (h : s.agenda = .tick l :: rest) :
    step s = .next (engineTick l { s with agenda := rest }) := by
  have := exec_phaseCode_of (p := s.pc) (s := sampleLine l { s with agenda := rest }) rfl
  simpa [step, fetch, h, decode, engineTick] using this

theorem step_reset (h : s.agenda = .reset :: rest) : step s = .next (applyReset { s with agenda := rest }) := by
  simp [step, fetch, h]

theorem step_read {addr n : Nat} (h : s.agenda = .read addr n :: rest) (hp : portAccess addr n) :
    step s = .next (answerRead (readRegister addr s) { s with agenda := rest }) := by
  have hr : readRegister addr { s with agenda := rest } = readRegister addr s := by
    unfold readRegister
    split <;> rfl
  simp only [step, fetch, h, decode, decodeAccess, accessError_none.mpr hp]
  rw [exec_decodeSlot_read hp.2.1 hp.2.2, hr]

theorem step_write {addr n : Nat} {v : Word} (h : s.agenda = .write addr n v :: rest) (hp : portAccess addr n) :
    step s = .next (writeRegister addr v { s with agenda := rest }) := by
  simp only [step, fetch, h, decode, decodeAccess, accessError_none.mpr hp]
  exact exec_decodeSlot_write hp.2.1 hp.2.2 v _

theorem step_symbol {b : Bool} {gap width : Nat} (h : s.agenda = .symbol b gap width :: rest) :
    step s = .next (receiveSymbol gap width { s with agenda := rest }) := by
  cases b <;> simp only [step, fetch, h, decode, decodeSymbol] <;> rfl

theorem step_read_refused {addr n : Nat} (h : s.agenda = .read addr n :: rest) (hp : ¬ portAccess addr n) :
    ∃ r, step s = .refused r := by
  cases he : accessError addr n with
  | none => exact absurd (accessError_none.mp he) hp
  | some e => exact ⟨refusalOf e, by simp [step, fetch, h, decode, decodeAccess, he]⟩

theorem step_write_refused {addr n : Nat} {v : Word} (h : s.agenda = .write addr n v :: rest)
    (hp : ¬ portAccess addr n) : ∃ r, step s = .refused r := by
  cases he : accessError addr n with
  | none => exact absurd (accessError_none.mp he) hp
  | some e => exact ⟨refusalOf e, by simp [step, fetch, h, decode, decodeAccess, he]⟩

end OneStep

/-- What one step that answers a next state can have done (00_scope.md R7). -/
theorem step_cases {s t : State} (h : step s = .next t) :
    (s.agenda = [] ∧ t = tickPhase (takeFreeSample s)) ∨
    (∃ l rest, s.agenda = .tick l :: rest ∧ t = engineTick l { s with agenda := rest }) ∨
    (∃ addr n rest, s.agenda = .read addr n :: rest ∧ portAccess addr n ∧
      t = answerRead (readRegister addr s) { s with agenda := rest }) ∨
    (∃ addr n v rest, s.agenda = .write addr n v :: rest ∧ portAccess addr n ∧
      t = writeRegister addr v { s with agenda := rest }) ∨
    (∃ b gap width rest, s.agenda = .symbol b gap width :: rest ∧
      t = receiveSymbol gap width { s with agenda := rest }) ∨
    (∃ rest, s.agenda = .reset :: rest ∧ t = applyReset { s with agenda := rest }) := by
  match ha : s.agenda with
  | [] =>
    rw [step_free ha] at h
    cases h
    exact .inl ⟨rfl, rfl⟩
  | .tick l :: rest =>
    rw [step_tick ha] at h
    cases h
    exact .inr (.inl ⟨l, rest, rfl, rfl⟩)
  | .read addr n :: rest =>
    by_cases hp : portAccess addr n
    · rw [step_read ha hp] at h
      cases h
      exact .inr (.inr (.inl ⟨addr, n, rest, rfl, hp, rfl⟩))
    · obtain ⟨r, hr⟩ := step_read_refused ha hp
      rw [hr] at h
      cases h
  | .write addr n v :: rest =>
    by_cases hp : portAccess addr n
    · rw [step_write ha hp] at h
      cases h
      exact .inr (.inr (.inr (.inl ⟨addr, n, v, rest, rfl, hp, rfl⟩)))
    · obtain ⟨r, hr⟩ := step_write_refused ha hp
      rw [hr] at h
      cases h
  | .symbol b gap width :: rest =>
    rw [step_symbol ha] at h
    cases h
    exact .inr (.inr (.inr (.inr (.inl ⟨b, gap, width, rest, rfl, rfl⟩))))
  | .reset :: rest =>
    rw [step_reset ha] at h
    cases h
    exact .inr (.inr (.inr (.inr (.inr ⟨rest, rfl, rfl⟩))))

/-- What a write can do (45_host_interface.md R131): a command, a flag clear, an enable store, a configuration store while
idle, or nothing. -/
theorem writeRegister_cases (addr : Nat) (v : Word) (s : State) :
    (addr = 0x00 ∧ writeRegister addr v s = commandWrite v s) ∨
    (addr = 0x08 ∧ writeRegister addr v s = clearFlags v s) ∨
    (addr = 0x0C ∧ writeRegister addr v s = storeIen v s) ∨
    (addr = 0x10 ∧ s.pc = .idle ∧ writeRegister addr v s = storeCfg v s) ∨
    (s.pc = .idle ∧ ∃ th ta tb ts tk t1 t2 t3 t4, writeRegister addr v s =
      { s with thresh := th, tStartA := ta, tStartB := tb, tSettle := ts, tAck := tk, tBitStart := t1, tMeasure := t2,
               tBitEnd := t3, tBackoff := t4 }) ∨
    writeRegister addr v s = s := by
  unfold writeRegister
  split
  · exact .inl ⟨rfl, rfl⟩
  · exact .inr (.inl ⟨rfl, rfl⟩)
  · exact .inr (.inr (.inl ⟨rfl, rfl⟩))
  all_goals
    first
    | exact .inr (.inr (.inr (.inr (.inr rfl))))
    | (by_cases hi : s.pc = .idle
       · rw [storeWhenIdle_idle hi]
         first
         | exact .inr (.inr (.inr (.inl ⟨rfl, hi, rfl⟩)))
         | exact .inr (.inr (.inr (.inr (.inl ⟨hi, _, _, _, _, _, _, _, _, _, rfl⟩))))
       · rw [storeWhenIdle_busy hi]
         exact .inr (.inr (.inr (.inr (.inr rfl)))))

end Sys2Proof.Machine
end

