-- ==== Sys2Proof/Laws/Invariant.lean ====
section
/-! SUPPORT. The invariant of 10_state.md R37 kept by each operation: counts, phase moves, the three actions, ticks, runs
of ticks and writes. -/

namespace Sys2Proof.Machine

/-- What of a state the invariant reads: not the model's own fields, the flags, the enables or the time registers. -/
def State.invView (s : State) : State :=
  { s.attemptView with
    thresh := 0#24
    tStartA := 0#24
    tStartB := 0#24
    tSettle := 0#24
    tAck := 0#24
    tBitStart := 0#24
    tMeasure := 0#24
    tBitEnd := 0#24
    tBackoff := 0#24 }

theorem Inv.of_view {s t : State} (h : Inv s) (hv : t.invView = s.invView) : Inv t := by
  have k : Inv s.invView :=
    { elapsed := h.elapsed
      idle := h.idle
      drive := h.drive
      acquiring := h.acquiring
      backoff := h.backoff
      success := h.success
      failure := h.failure
      valid := h.valid
      notValid := h.notValid
      reason := h.reason
      index := h.index
      frame := h.frame
      clean := h.clean
      level := h.level }
  rw [← hv] at k
  exact
    { elapsed := k.elapsed
      idle := k.idle
      drive := k.drive
      acquiring := k.acquiring
      backoff := k.backoff
      success := k.success
      failure := k.failure
      valid := k.valid
      notValid := k.notValid
      reason := k.reason
      index := k.index
      frame := k.frame
      clean := k.clean
      level := k.level }

/-- A count in a phase other than IDLE and VALIDATE keeps the invariant as long as the accumulator stays in its bound
(40_levelwaiter.md R82). -/
theorem Inv.countTick {s : State} (h : Inv s) (hi : s.pc ≠ .idle) (hv : s.pc ≠ .validate)
    (hb : (s.elapsed + 1#32).toNat ≤ 2 ^ 24) : Inv (countTick s) :=
  { elapsed := hb
    idle := fun k => absurd k hi
    drive := h.drive
    acquiring := h.acquiring
    backoff := h.backoff
    success := h.success
    failure := h.failure
    valid := h.valid
    notValid := h.notValid
    reason := h.reason
    index := ⟨h.index.1, fun k => absurd k hv⟩
    frame := h.frame
    clean := h.clean
    level := h.level }

theorem Inv.beginAttempt (s : State) : Inv (beginAttempt s) := by
  constructor <;> simp [InvElapsed, InvIdle, InvDrive, InvAcquiring, InvBackoff, InvSuccess, InvFailure, InvValid, InvNotValid, InvReason,
    InvIndex, InvFrame, InvClean, InvLevel, samplingPhase, attemptPhase]

/-- `Fail(r)` from a phase of an attempt (44_retry_controller.md R118): the pair is 0 for a timeout, and differs for a
mismatch. -/
theorem Inv.fail {s : State} {r : Reason} (hr : r ≠ .none) (hd : s.d = Frame.zero) (hv : s.rvalid = false)
    (hm : r = .checksumMismatch → s.chkCalc ≠ s.chkRecv)
    (ht : r ≠ .checksumMismatch → s.chkCalc = 0#8 ∧ s.chkRecv = 0#8) : Inv (fail r s) := by
  cases ha : s.autoRetry <;> cases r <;> constructor <;> simp_all [InvElapsed, InvIdle, InvDrive, InvAcquiring, InvBackoff, InvSuccess, InvFailure, InvValid, InvNotValid, InvReason,
    InvIndex, InvFrame, InvClean, InvLevel, samplingPhase, attemptPhase]

theorem attempt_of {s : State} {p : Phase} (hp : s.pc = p) (h : attemptPhase p) : attemptPhase s.pc := hp ▸ h

/-- In a phase of an attempt no result and no reason stands. -/
theorem Inv.inAttempt {s : State} (h : Inv s) (hp : attemptPhase s.pc) :
    s.d = Frame.zero ∧ s.rvalid = false ∧ s.reason = .none ∧ s.chkCalc = 0#8 ∧ s.chkRecv = 0#8 ∧
      s.rstate = .acquiring := by
  have ha := h.acquiring.mpr hp
  have hv : s.rvalid = false := by
    cases hv : s.rvalid with
    | false => rfl
    | true => exact absurd (h.valid hv).1 hp.1
  exact ⟨h.notValid hv, hv, (h.clean ha).1, (h.clean ha).2.1, (h.clean ha).2.2, ha⟩

theorem Inv.timeout {s : State} {r : Reason} (h : Inv s) (hp : attemptPhase s.pc) (hr : r ≠ .none)
    (hc : r ≠ .checksumMismatch) : Inv (Machine.fail r s) := by
  obtain ⟨hd, hv, _, h1, h2, _⟩ := h.inAttempt hp
  exact Inv.fail hr hd hv (fun k => absurd k hc) (fun _ => ⟨h1, h2⟩)

/-- A move from one phase of an attempt to another that changes only `pc`, `elapsed`, the drive and the working state. -/
theorem Inv.move {s : State} (h : Inv s) (hp : attemptPhase s.pc) {p : Phase} {e : Word} {oe : Bool} {out : Level}
    {x : Frame} {i : Fin 40} (hq : attemptPhase p) (he : e.toNat ≤ 2 ^ 24) (ho : oe = true ↔ (p = .startA ∨ p = .startB))
    (hi : i ≠ 0 → samplingPhase p) (hv : p = .validate → i = 39 ∧ e = 0#32)
    (hx : ∀ j, i < j → frameBit x j = false) (hb : p = .bitStart ∨ p = .bitMeasure → frameBit x i = false)
    (hz : ¬ samplingPhase p → x = Frame.zero)
    (hl : (p = .startA → out = s.startLevel) ∧ (p = .startB → out = s.startLevel.opposite)) :
    Inv { s with pc := p, elapsed := e, lineOe := oe, lineOut := out, x := x, bitIdx := i } := by
  obtain ⟨hd, hv', hr, h1, h2, ha⟩ := h.inAttempt hp
  exact
    { elapsed := he
      idle := fun k => absurd k hq.1
      drive := ho
      acquiring := ⟨fun _ => hq, fun _ => ha⟩
      backoff := fun k => absurd k hq.2
      success := fun k => absurd (ha.symm.trans k) (by decide)
      failure := fun k => absurd (ha.symm.trans k) (by decide)
      valid := fun k => absurd (hv'.symm.trans k) (by decide)
      notValid := fun _ => hd
      reason := ⟨fun k => absurd (hr.symm.trans k) (by decide), fun _ => ⟨h1, h2⟩⟩
      index := ⟨hi, hv⟩
      frame := ⟨hx, hb, hz⟩
      clean := fun _ => ⟨hr, h1, h2⟩
      level := hl }

section Phases

variable {target : Level} {t : Ticks} {r : Reason} {f : Word → State → State} {g : State → State} {s : State}

theorem Inv.waitPhase (h : Inv s) (hp : attemptPhase s.pc) (hv : s.pc ≠ .validate) (hr : r ≠ .none)
    (hc : r ≠ .checksumMismatch) (hf : Inv (f s.elapsed s)) : Inv (waitPhase target t r f s) := by
  rcases waitPhase_cases (target := target) (t := t) (r := r) (f := f) (s := s) with
    ⟨_, k⟩ | ⟨_, _, k⟩ | ⟨_, ht, k⟩ <;> rw [k]
  · exact hf
  · exact h.timeout hp hr hc
  · have : t.toNat < 2 ^ 24 := t.isLt
    exact h.countTick hp.1 hv (by rw [add_one_toNat (by omega)]; omega)

theorem Inv.holdPhase (h : Inv s) (hi : s.pc ≠ .idle) (hv : s.pc ≠ .validate)
    (hg : Inv (g { s with elapsed := 0#32 })) : Inv (holdPhase t g s) := by
  rcases holdPhase_cases (t := t) (g := g) (s := s) with ⟨_, k⟩ | ⟨ht, k⟩ <;> rw [k]
  · exact hg
  · have : t.toNat < 2 ^ 24 := t.isLt
    exact h.countTick hi hv (by omega)

end Phases

/-- In BIT_END the next position is still clear. -/
theorem Inv.endBit {s : State} (h : Inv s) (hp : s.pc = .bitEnd) : Inv (endBit s) := by
  have oe := h.drive
  have fr := h.frame
  have ha : attemptPhase s.pc := by simp [attemptPhase, hp]
  simp only [InvDrive, InvFrame, samplingPhase, hp] at oe fr
  unfold Machine.endBit
  split
  next h39 =>
    exact h.move ha (by decide) (by decide) (by simpa using oe) (fun _ => by decide) (fun _ => ⟨h39, rfl⟩) fr.1
      (fun k => by simp at k) (fun k => by simp [samplingPhase] at k) (by simp)
  next h39 =>
    have hlt : s.bitIdx < s.bitIdx + 1 := by
      have h1 : s.bitIdx.val ≠ 39 := fun k => h39 (Fin.ext k)
      have h2 := s.bitIdx.isLt
      rw [Fin.lt_def, Fin.val_add]
      show s.bitIdx.val < (s.bitIdx.val + 1) % 40
      omega
    exact h.move ha (by decide) (by decide) (by simpa using oe) (fun _ => by decide) (fun k => by simp at k)
      (fun j hj => fr.1 j (lt_trans hlt hj)) (fun _ => fr.1 _ hlt) (fun k => by simp [samplingPhase] at k)
      (by simp)

/-- A validation ends the attempt with nothing sampled left behind (43_frame_validator.md R110). -/
theorem Inv.tickValidate {s : State} (h : Inv s) (hp : s.pc = .validate) : Inv (tickValidate s) := by
  obtain ⟨hd, hv, hr, h1, h2, ha⟩ := h.inAttempt (attempt_of hp (by decide))
  have oe := h.drive
  unfold Machine.tickValidate
  split
  next hs =>
    constructor <;>
      simp_all [InvElapsed, InvIdle, InvDrive, InvAcquiring, InvBackoff, InvSuccess, InvFailure, InvValid, InvNotValid,
        InvReason, InvIndex, InvFrame, InvClean, InvLevel]
  next hs => exact Inv.fail (by decide) hd hv (fun _ => hs) (fun k => absurd rfl k)

/-- The move at the end of a hold or a wait that leaves the frame and the index as they are. -/
theorem Inv.advance {s : State} (h : Inv s) {p q : Phase} (hp : s.pc = p) {e : Word} {oe : Bool} {out : Level}
    (ha : attemptPhase p) (hq : attemptPhase q) (he : e.toNat ≤ 2 ^ 24) (ho : oe = true ↔ (q = .startA ∨ q = .startB))
    (hv : q ≠ .validate) (hs : samplingPhase p → samplingPhase q) (hb : q = .bitMeasure → p = .bitStart)
    (hc : q = .bitStart → ¬ samplingPhase p)
    (hl : (q = .startA → out = s.startLevel) ∧ (q = .startB → out = s.startLevel.opposite)) :
    Inv { s with pc := q, elapsed := e, lineOe := oe, lineOut := out } := by
  subst hp
  refine h.move ha hq he ho (fun k => hs (h.index.1 k)) (fun k => absurd k hv) h.frame.1 ?_
    (fun k => h.frame.2.2 fun k' => k (hs k')) hl
  rintro (k | k)
  · rw [h.frame.2.2 (hc k)]
    exact frameBit_zero _
  · exact h.frame.2.1 (.inl (hb k))

/-- Every tick keeps the invariant (10_state.md R37). -/
theorem Inv.tickPhase {s : State} (h : Inv s) : Inv (tickPhase s) := by
  have b0 : (0#32).toNat ≤ 2 ^ 24 := by decide
  have b1 : (1#32).toNat ≤ 2 ^ 24 := by decide
  have released {p : Phase} (hp : s.pc = p) (h1 : p ≠ .startA) (h2 : p ≠ .startB) : s.lineOe = false := by
    have := h.drive
    simpa [InvDrive, hp, h1, h2] using this
  refine tickPhase_elim (idle := fun _ => h) (startA := fun hp => ?startA) (startB := fun hp => ?startB)
    (settle := fun hp => ?settle) (ackA := fun hp => ?ackA) (ackB := fun hp => ?ackB) (ackC := fun hp => ?ackC)
    (bitStart := fun hp => ?bitStart) (bitMeasure := fun hp => ?bitMeasure) (bitEnd := fun hp => ?bitEnd)
    (validate := h.tickValidate) (backoff := fun hp => ?backoff)
  case startA =>
    have oe : s.lineOe = true := h.drive.mpr (.inl hp)
    exact h.holdPhase (by simp [hp]) (by simp [hp])
      (h.advance hp (q := .startB) (by decide) (by decide) b0 (by simp [oe]) (by decide) (by decide) (by decide)
        (by decide) (by simp))
  case startB =>
    exact h.holdPhase (by simp [hp]) (by simp [hp])
      (h.advance hp (q := .settle) (by decide) (by decide) b0 (by simp) (by decide) (by decide) (by decide)
        (by decide) (by simp))
  case settle =>
    have oe := released hp (by decide) (by decide)
    exact h.holdPhase (by simp [hp]) (by simp [hp])
      (h.advance hp (q := .ackA) (by decide) (by decide) b0 (by simp [oe]) (by decide) (by decide) (by decide)
        (by decide) (by simp))
  case ackA =>
    have oe := released hp (by decide) (by decide)
    exact h.waitPhase (attempt_of hp (by decide)) (by simp [hp]) (by decide) (by decide)
      (h.advance hp (q := .ackB) (by decide) (by decide) b0 (by simp [oe]) (by decide) (by decide) (by decide)
        (by decide) (by simp))
  case ackB =>
    have oe := released hp (by decide) (by decide)
    exact h.waitPhase (attempt_of hp (by decide)) (by simp [hp]) (by decide) (by decide)
      (h.advance hp (q := .ackC) (by decide) (by decide) b0 (by simp [oe]) (by decide) (by decide) (by decide)
        (by decide) (by simp))
  case ackC =>
    have oe := released hp (by decide) (by decide)
    exact h.waitPhase (attempt_of hp (by decide)) (by simp [hp]) (by decide) (by decide)
      (h.advance hp (q := .bitStart) (by decide) (by decide) b0 (by simp [oe]) (by decide) (by decide) (by decide)
        (by decide) (by simp))
  case bitStart =>
    have oe := released hp (by decide) (by decide)
    exact h.waitPhase (attempt_of hp (by decide)) (by simp [hp]) (by decide) (by decide)
      (h.advance hp (q := .bitMeasure) (by decide) (by decide) b1 (by simp [oe]) (by decide) (by decide) (by decide)
        (by decide) (by simp))
  case bitMeasure =>
    have oe := released hp (by decide) (by decide)
    exact h.waitPhase (attempt_of hp (by decide)) (by simp [hp]) (by decide) (by decide)
      (h.move (attempt_of hp (by decide)) (by decide) b0 (by simp [oe]) (fun _ => by decide) (by simp)
        (fun j hj => by rw [frameBit_pack_other _ _ (ne_of_gt hj)]; exact h.frame.1 j hj) (by simp)
        (by simp [samplingPhase]) (by simp))
  case bitEnd => exact h.waitPhase (attempt_of hp (by decide)) (by simp [hp]) (by decide) (by decide) (h.endBit hp)
  case backoff => exact h.holdPhase (by simp [hp]) (by simp [hp]) (Inv.beginAttempt _)

theorem Inv.engineTick {s : State} (h : Inv s) (l : Level) : Inv (engineTick l s) :=
  Inv.tickPhase (h.of_view (t := sampleLine l s) rfl)

theorem Inv.runSamples {s : State} (h : Inv s) (ls : List Level) : Inv (runSamples ls s) :=
  runSamples_keeps (fun l _ k => k.engineTick l) ls h

/-- A command keeps the invariant (45_host_interface.md R132 to R134). -/
theorem Inv.commandWrite {s : State} (h : Inv s) (v : Word) : Inv (commandWrite v s) := by
  unfold Machine.commandWrite startCommand ackCommand
  repeat' split
  · exact Inv.beginAttempt s
  · exact h
  · next hc =>
      obtain ⟨h1, h2, h3, h4, h5, h6, h7, h8, h9, h10, h11, h12, h13, h14⟩ := h
      obtain ⟨hi, _⟩ := hc
      constructor <;> simp_all [InvElapsed, InvIdle, InvDrive, InvAcquiring, InvBackoff, InvSuccess, InvFailure, InvValid,
        InvNotValid, InvReason, InvIndex, InvFrame, InvClean, InvLevel, samplingPhase, attemptPhase]
  · exact h
  · exact h

/-- Storing `CFG` in IDLE keeps the invariant: no phase that reads its fields is held. -/
theorem Inv.storeCfg {s : State} (h : Inv s) (hi : s.pc = .idle) (v : Word) : Inv (storeCfg v s) :=
  { elapsed := h.elapsed
    idle := h.idle
    drive := h.drive
    acquiring := h.acquiring
    backoff := fun k => absurd (hi.symm.trans k) (by decide)
    success := h.success
    failure := h.failure
    valid := h.valid
    notValid := h.notValid
    reason := h.reason
    index := h.index
    frame := h.frame
    clean := h.clean
    level := ⟨fun k => absurd (hi.symm.trans k) (by decide), fun k => absurd (hi.symm.trans k) (by decide)⟩ }

/-- Every write keeps the invariant. -/
theorem Inv.writeRegister {s : State} (h : Inv s) (addr : Nat) (v : Word) : Inv (writeRegister addr v s) := by
  rcases writeRegister_cases addr v s with ⟨_, k⟩ | ⟨_, k⟩ | ⟨_, k⟩ | ⟨_, hi, k⟩ | ⟨_, _, _, _, _, _, _, _, _, _, k⟩ | k <;>
    rw [k]
  · exact h.commandWrite v
  · exact h.of_view rfl
  · exact h.of_view rfl
  · exact h.storeCfg hi v
  · exact h.of_view rfl
  · exact h

end Sys2Proof.Machine
end

