-- ==== Sys2Proof/Laws/Words.lean ====
section
/-! SUPPORT. Fields of a concatenated word: extracting above or below the seam, so that a register's layout
(10_state.md R21, R23, R26) is read off one seam at a time (`refine (extract_append_upper _ _ _).trans ?_`). -/

namespace Sys2Proof.Machine

variable {n m : Nat} (a : BitVec n) (b : BitVec m)

/-- A field that lies within the lower part. -/
theorem extract_append_lower {k w : Nat} (h : k + w ≤ m) : (a ++ b).extractLsb' k w = b.extractLsb' k w := by
  ext i hi
  rw [BitVec.getElem_extractLsb', BitVec.getElem_extractLsb', BitVec.getLsbD_append, if_pos (by omega)]

/-- A field that lies within the upper part. -/
theorem extract_append_upper {k w : Nat} (h : m ≤ k) : (a ++ b).extractLsb' k w = a.extractLsb' (k - m) w := by
  ext i hi
  rw [BitVec.getElem_extractLsb', BitVec.getElem_extractLsb', BitVec.getLsbD_append, if_neg (by omega),
    show k + i - m = k - m + i by omega]

/-- The whole of a word. -/
theorem extract_whole (v : BitVec n) : v.extractLsb' 0 n = v := by
  ext i hi
  rw [BitVec.getElem_extractLsb', Nat.zero_add, BitVec.getLsbD_eq_getElem hi]

theorem levelBit_eq (l : Level) : levelBit l = if l = .high then 1#1 else 0#1 := by cases l <;> rfl

end Sys2Proof.Machine
end

