-- ==== Sys2Proof/Tests/Slice0.lean ====
section
/-! SUPPORT. Tests: well-formedness refusals, a word written out from the spec for every constructor, one or two steps of
each operation with the value a spec example gives (the example's rule stands in the docstring; section numbers of
95_test_vectors.md are not relied on), and for each statement with hypotheses a state and operands that meet them. -/

namespace Sys2Proof.Tests

open Sys2Proof Sys2Proof.Machine

/-- The next state of an outcome, if it is one. -/
def nextState : Host.Outcome State Fault Refusal → Option State
  | .next t => some t
  | .fault _ => none
  | .refused _ => none

/-- The refusal of an outcome, if it is one. -/
def refusal : Host.Outcome State Fault Refusal → Option Refusal
  | .next _ => none
  | .fault _ => none
  | .refused r => some r

/-- An observation of the next state. -/
def see {α : Type} (f : State → α) (o : Host.Outcome State Fault Refusal) : Option α := (nextState o).map f

/-- What the decoder reads, if anything. -/
def read? (w : OpWord) : Option Instr :=
  match decode w with
  | .ok i => some i
  | .error _ => none

/-- Why the decoder rejects, if it does. -/
def reject? (w : OpWord) : Option DecodeError :=
  match decode w with
  | .ok _ => none
  | .error e => some e

/-- An attempt in phase `p` that has counted `e`, at a tick whose sample is `l`; everything else as after reset. -/
def inPhase (p : Phase) (e : Nat) (l : Level) : State :=
  { State.reset with pc := p, elapsed := BitVec.ofNat 32 e, lineIn := l, rstate := .acquiring }

/-- The frame of 43_frame_validator.md R110's example. -/
def sampleFrame : Frame := ⟨0xAA#8, 0xAA#8, 0xAA#8, 0xAA#8, 0xA8#8⟩

/-- An attempt about to be validated. -/
def inValidate (f : Frame) : State := { inPhase .validate 0 .low with x := f, bitIdx := 39 }

/-- The block after the success of R110's example. -/
def afterSuccess : State :=
  { State.reset with
    d := sampleFrame, rvalid := true, chkCalc := 0xA8#8, chkRecv := 0xA8#8, okIf := true, rstate := .success }

/-- An attempt about to fail in `ACK_A`, under automatic retry or not. -/
def aboutToFail (retry : Bool) : State := { inPhase .ackA 2001 .high with autoRetry := retry }

/-! Well-formedness. -/

theorem test_wellFormed_zero_width : Instr.wellFormed (.bit0 10 0) = false ∧ Instr.wellFormed (.bit1 10 0) = false := by decide
theorem test_wellFormed_one_sample : Instr.wellFormed (.bit1 0 1) = true := by decide

/-- No symbol is rejected, however long (30_encoding.md R62). -/
theorem test_decode_any_symbol :
    read? (.symbol true 10 0) = some (.bit1 10 0) ∧
      read? (.symbol false (2 ^ 25) (2 ^ 25)) = some (.bit0 (2 ^ 25) (2 ^ 25)) := by decide

theorem test_decode_bad_accesses :
    reject? (.read 0x04 2) = some .accessWidth ∧ reject? (.write 0x05 4 0#32) = some .accessMisaligned ∧
      reject? (.read 0x100 4) = some .accessOutOfRange := by decide

/-! Decoding, each word written out from 30_encoding.md R65, R62, R68 and 20_memory.md R41. -/

theorem test_decode_phases :
    read? (.phase 0b0000#4) = some .idle ∧ read? (.phase 0b0001#4) = some .startA ∧
      read? (.phase 0b0010#4) = some .startB ∧ read? (.phase 0b0011#4) = some .settle ∧
      read? (.phase 0b0100#4) = some .ackA ∧ read? (.phase 0b0101#4) = some .ackB ∧
      read? (.phase 0b0110#4) = some .ackC ∧ read? (.phase 0b0111#4) = some .bitStart ∧
      read? (.phase 0b1000#4) = some .bitMeasure ∧ read? (.phase 0b1001#4) = some .bitEnd ∧
      read? (.phase 0b1010#4) = some .validate ∧ read? (.phase 0b1011#4) = some .backoff ∧
      read? (.phase 0b1101#4) = some (.phaseReserved 0b01#2) := by decide

theorem test_decode_commands :
    read? (.write 0x00 4 0x00000001#32) = some (.start 0#31) ∧ read? (.write 0x00 4 0x00000007#32) = some (.start 3#31) ∧
      read? (.write 0x00 4 0x00000002#32) = some (.ack 0#30) ∧
      read? (.write 0x00 4 0xFFFFFFFC#32) = some (.nop 0x3FFFFFFF#30) ∧ read? (.read 0x00 4) = some .cmd := by decide

theorem test_decode_registers :
    read? (.read 0x04 4) = some (.status .read) ∧ read? (.write 0x08 4 3#32) = some (.iflag (.write 3#32)) ∧
      read? (.write 0x0C 4 1#32) = some (.ien (.write 1#32)) ∧ read? (.write 0x10 4 2#32) = some (.cfg (.write 2#32)) ∧
      read? (.read 0x14 4) = some (.thresh .read) ∧ read? (.read 0x18 4) = some (.tStartA .read) ∧
      read? (.read 0x1C 4) = some (.tStartB .read) ∧ read? (.write 0x20 4 9#32) = some (.tSettle (.write 9#32)) ∧
      read? (.read 0x24 4) = some (.tAck .read) ∧ read? (.read 0x28 4) = some (.tBitStart .read) ∧
      read? (.read 0x2C 4) = some (.tMeasure .read) ∧ read? (.read 0x30 4) = some (.tBitEnd .read) ∧
      read? (.read 0x34 4) = some (.tBackoff .read) := by decide

theorem test_decode_views_and_reserved :
    read? (.read 0x38 4) = some (.data0 .read) ∧ read? (.read 0x3C 4) = some (.data1 .read) ∧
      read? (.read 0x40 4) = some (.reading .read) ∧ read? (.read 0x44 4) = some (.chk .read) ∧
      read? (.read 0x48 4) = some (.elapsed .read) ∧ read? (.read 0x4C 4) = some (.reserved4C .read) ∧
      read? (.read 0x5C 4) = some (.reserved50 0b11#2 .read) ∧ read? (.read 0x64 4) = some (.reserved60 0b001#3 .read) ∧
      read? (.read 0x7C 4) = some (.reserved60 0b111#3 .read) ∧ read? (.read 0x80 4) = some (.reserved80 0#5 .read) ∧
      read? (.write 0xFC 4 1#32) = some (.reserved80 0b11111#5 (.write 1#32)) := by decide

theorem test_decode_symbols :
    read? (.symbol false 50 26) = some (.bit0 50 26) ∧ read? (.symbol true 50 70) = some (.bit1 50 70) := by decide

theorem test_decode_table_words :
    decodeTableWord 8 8 = some .bitMeasure ∧ decodeTableWord 32 1 = some (.start 0#31) ∧
      decodeTableWord 8 0x44 = some (.chk .read) ∧ decodeTableWord 8 0xFC = some (.reserved80 0b11111#5 .read) := by decide

/-! Phases. -/

/-- 44_retry_controller.md R120: ticks after reset leave every register at its reset value. -/
theorem test_idle : nextState (exec .idle State.reset) = some State.reset := by decide

/-- 41_frame_acquirer.md R90: the step of tick 49999 sets `line_out` Low and `pc = START_B`. -/
theorem test_startA_last_tick :
    see (fun t => (t.lineOut, t.pc, t.elapsed)) (exec .startA { inPhase .startA 49999 .high with lineOe := true, lineOut := .high }) =
      some (.low, .startB, 0#32) := by decide

theorem test_startA_one_before :
    see (fun t => (t.pc, t.elapsed)) (exec .startA (inPhase .startA 49998 .high)) = some (.startA, 49999#32) := by decide

/-- 41_frame_acquirer.md R91: the step of tick 69999 (20000 after entry) releases the line. -/
theorem test_startB_last_tick :
    see (fun t => (t.lineOe, t.pc)) (exec .startB { inPhase .startB 19999 .high with lineOe := true }) =
      some (false, .settle) := by decide

/-- 41_frame_acquirer.md R92: 40 ticks after reset. -/
theorem test_settle_last_tick : see (·.pc) (exec .settle (inPhase .settle 39 .low)) = some .ackA := by decide

/-- 41_frame_acquirer.md R93: High 20 times, then Low: `Done(20)`. -/
theorem test_ackA_done : see (fun t => (t.pc, t.elapsed)) (exec .ackA (inPhase .ackA 20 .low)) = some (.ackB, 0#32) := by decide

/-- 44_retry_controller.md R118: `ACK_A` times out with `AUTO_RETRY = 0`: `STATUS` = 0x0000010C, `IFLAG` = 0x2. -/
theorem test_ackA_timeout :
    see (fun t => (statusWord t, iflagWord t)) (exec .ackA (aboutToFail false)) = some (0x0000010C#32, 0x2#32) := by decide

/-- 41_frame_acquirer.md R94: `Done(79)` at the first High sample. -/
theorem test_ackB_done : see (·.pc) (exec .ackB (inPhase .ackB 79 .high)) = some .ackC := by decide

/-- 41_frame_acquirer.md R95: `Done(79)` at the Low sample. -/
theorem test_ackC_done : see (·.pc) (exec .ackC (inPhase .ackC 79 .low)) = some .bitStart := by decide

/-- 42_bit_sampler.md R100: Low 49 times, then High: `elapsed = 1`, `pc = BIT_MEASURE`. -/
theorem test_bitStart_done :
    see (fun t => (t.pc, t.elapsed)) (exec .bitStart (inPhase .bitStart 49 .high)) = some (.bitMeasure, 1#32) := by decide

/-- 42_bit_sampler.md R101: High for 60 samples, then Low: `x[0]` becomes 0x80. -/
theorem test_bitMeasure_one :
    see (fun t => (t.x.b0, t.pc)) (exec .bitMeasure (inPhase .bitMeasure 60 .low)) = some (0x80#8, .bitEnd) := by decide

/-- 42_bit_sampler.md R101: `d = 45` gives 0 and `d = 46` gives 1. -/
theorem test_bitMeasure_threshold :
    see (·.x.b0) (exec .bitMeasure (inPhase .bitMeasure 45 .low)) = some 0x00#8 ∧
      see (·.x.b0) (exec .bitMeasure (inPhase .bitMeasure 46 .low)) = some 0x80#8 := by decide

/-- 42_bit_sampler.md R102: `Done(0)` with `bit_idx` 0 and with `bit_idx` 39. -/
theorem test_bitEnd :
    see (fun t => (t.bitIdx, t.pc)) (exec .bitEnd (inPhase .bitEnd 0 .low)) = some (1, .bitStart) ∧
      see (fun t => (t.bitIdx, t.pc)) (exec .bitEnd { inPhase .bitEnd 0 .low with bitIdx := 39 }) =
        some (39, .validate) := by decide

/-- 43_frame_validator.md R110, 44_retry_controller.md R117: AA AA AA AA A8. -/
theorem test_validate_success :
    see (fun t => (statusWord t, iflagWord t, data0Word t, chkWord t)) (exec .validate (inValidate sampleFrame)) =
      some (0x0000000A#32, 0x1#32, 0xAAAAAAAA#32, 0x0000A8A8#32) := by decide

/-- 44_retry_controller.md R118: a mismatch under automatic retry: `STATUS` = 0x000005BD. -/
theorem test_validate_mismatch_retry :
    see statusWord (exec .validate { inValidate ⟨0x01#8, 0#8, 0#8, 0#8, 0#8⟩ with autoRetry := true }) =
      some 0x000005BD#32 := by decide

/-- 44_retry_controller.md R119, R116: the 120000th tick begins an attempt: `STATUS` = 0x00180015. -/
theorem test_backoff_expires :
    see statusWord (exec .backoff { inPhase .backoff 119999 .low with rstate := .failure, reason := .bitEndTimeout, autoRetry := true }) =
      some 0x00180015#32 := by decide

/-- 30_encoding.md R70 (log 9). -/
theorem test_phaseReserved : refusal (exec (.phaseReserved 2#2) State.reset) = some .reservedPhase := by decide

/-! Commands. -/

/-- 45_host_interface.md R132: after reset, `WR CMD, 0x00000001` then `STATUS` = 0x00180015. -/
theorem test_start : see statusWord (exec (.start 0#31) State.reset) = some 0x00180015#32 := by decide

theorem test_start_ignored_while_busy :
    nextState (exec (.start 0#31) (inPhase .backoff 7 .low)) = some (inPhase .backoff 7 .low) := by decide

/-- 45_host_interface.md R133: after a success 0x0000000A, then `WR CMD, 2`: 0x00000002. -/
theorem test_ack :
    statusWord afterSuccess = 0x0000000A#32 ∧ see statusWord (exec (.ack 0#30) afterSuccess) = some 0x00000002#32 := by decide

theorem test_ack_ignored_in_backoff :
    nextState (exec (.ack 0#30) { inPhase .backoff 7 .low with rstate := .failure }) =
      some { inPhase .backoff 7 .low with rstate := .failure } := by decide

theorem test_nop : nextState (exec (.nop 0x3FFFFFFF#30) afterSuccess) = some afterSuccess := by decide

theorem test_cmd_reads_zero : see (·.readData) (exec .cmd { afterSuccess with readData := 7#32 }) = some 0#32 := by decide

/-! Registers. -/

/-- 45_host_interface.md R135: mid-way through bit 5's pulse `STATUS` = 0x00005085. -/
theorem test_status :
    see (·.readData) (exec (.status .read) { inPhase .bitMeasure 30 .high with bitIdx := 5, lineOut := .low }) =
      some 0x00005085#32 := by decide

/-- 45_host_interface.md R136: `IFLAG` = 0x3, `WR IFLAG, 0x2`, `IFLAG` = 0x1. -/
theorem test_iflag :
    see iflagWord (exec (.iflag (.write 2#32)) { State.reset with okIf := true, failIf := true }) = some 1#32 := by decide

theorem test_ien_while_busy :
    see ienWord (exec (.ien (.write 0xFFFFFFFE#32)) (inPhase .ackA 0 .low)) = some 2#32 := by decide

/-- 45_host_interface.md R138; 10_state.md R39 for the reset value. -/
theorem test_cfg :
    see (·.readData) (exec (.cfg .read) State.reset) = some 2#32 ∧
      see cfgWord (exec (.cfg (.write 0xFFFFFFF1#32)) State.reset) = some 1#32 := by decide

theorem test_thresh :
    see (·.readData) (exec (.thresh .read) State.reset) = some 0x0000002D#32 ∧
      see (·.thresh) (exec (.thresh (.write 0xFF000046#32)) State.reset) = some 0x46#24 := by decide

theorem test_thresh_locked :
    nextState (exec (.thresh (.write 9#32)) (inPhase .startA 0 .low)) = some (inPhase .startA 0 .low) := by decide

theorem test_tStartA :
    see (·.readData) (exec (.tStartA .read) State.reset) = some 0x0000C350#32 ∧
      see (·.tStartA) (exec (.tStartA (.write 0x01000003#32)) State.reset) = some 3#24 := by decide

theorem test_tStartB :
    see (·.readData) (exec (.tStartB .read) State.reset) = some 0x00004E20#32 ∧
      see (·.tStartB) (exec (.tStartB (.write 0x01000003#32)) State.reset) = some 3#24 := by decide

theorem test_tSettle :
    see (·.readData) (exec (.tSettle .read) State.reset) = some 0x00000028#32 ∧
      see (·.tSettle) (exec (.tSettle (.write 0x01000003#32)) State.reset) = some 3#24 := by decide

theorem test_tAck :
    see (·.readData) (exec (.tAck .read) State.reset) = some 0x000007D0#32 ∧
      see (·.tAck) (exec (.tAck (.write 0x01000003#32)) State.reset) = some 3#24 := by decide

theorem test_tBitStart :
    see (·.readData) (exec (.tBitStart .read) State.reset) = some 0x000003E8#32 ∧
      see (·.tBitStart) (exec (.tBitStart (.write 0x01000003#32)) State.reset) = some 3#24 := by decide

theorem test_tMeasure :
    see (·.readData) (exec (.tMeasure .read) State.reset) = some 0x000007D0#32 ∧
      see (·.tMeasure) (exec (.tMeasure (.write 0x01000003#32)) State.reset) = some 3#24 := by decide

theorem test_tBitEnd :
    see (·.readData) (exec (.tBitEnd .read) State.reset) = some 0x000003E8#32 ∧
      see (·.tBitEnd) (exec (.tBitEnd (.write 0x01000003#32)) State.reset) = some 3#24 := by decide

theorem test_tBackoff :
    see (·.readData) (exec (.tBackoff .read) State.reset) = some 0x0001D4C0#32 ∧
      see (·.tBackoff) (exec (.tBackoff (.write 0x01000003#32)) State.reset) = some 3#24 := by decide

/-- 45_host_interface.md R148: the views after the success of AA AA AA AA A8. -/
theorem test_data0 :
    see (·.readData) (exec (.data0 .read) { afterSuccess with d := ⟨0x12#8, 0x34#8, 0x56#8, 0x78#8, 0x14#8⟩ }) =
      some 0x12345678#32 := by decide

theorem test_data1 : see (·.readData) (exec (.data1 .read) afterSuccess) = some 0x000000A8#32 := by decide

theorem test_reading :
    see (·.readData) (exec (.reading .read) { afterSuccess with d := ⟨0x12#8, 0x34#8, 0x56#8, 0x78#8, 0x14#8⟩ }) =
      some 0x00001256#32 := by decide

theorem test_chk :
    see (·.readData) (exec (.chk .read) { State.reset with chkCalc := 0x01#8, chkRecv := 0x02#8 }) = some 0x00000102#32 := by decide

theorem test_elapsed : see (·.readData) (exec (.elapsed .read) (inPhase .ackB 79 .low)) = some 79#32 := by decide

/-- 45_host_interface.md R149. -/
theorem test_reserved_offsets :
    see (·.readData) (exec (.reserved4C .read) { afterSuccess with readData := 5#32 }) = some 0#32 ∧
      see (·.readData) (exec (.reserved50 3#2 .read) { afterSuccess with readData := 5#32 }) = some 0#32 ∧
      see (·.readData) (exec (.reserved60 7#3 .read) { afterSuccess with readData := 5#32 }) = some 0#32 ∧
      nextState (exec (.reserved80 31#5 (.write 1#32)) afterSuccess) = some afterSuccess := by decide

/-! Symbols. -/

/-- 42_bit_sampler.md R103: a pulse of exactly 45 ticks is a 0. -/
theorem test_bit0 :
    see (fun t => (t.x, t.bitIdx, t.pc)) (exec (.bit0 2 45) (inPhase .bitStart 0 .low)) =
      some (Frame.zero, 1, .bitStart) := by decide

/-- 42_bit_sampler.md R103: a pulse of 46 ticks is a 1; at position 39 it is bit 0 of the last byte (30_encoding.md R63). -/
theorem test_bit1 :
    see (fun t => (t.x, t.bitIdx, t.pc)) (exec (.bit1 2 46) { inPhase .bitStart 0 .low with bitIdx := 39 }) =
      some (⟨0#8, 0#8, 0#8, 0#8, 1#8⟩, 39, .validate) := by decide

/-- 30_encoding.md R62: a pulse still High when the budget is exceeded is `BitMeasureTimeout`, code 3. -/
theorem test_bit1_too_wide :
    see (fun t => (t.pc, reasonCode t.reason)) (exec (.bit1 1 5) { inPhase .bitStart 0 .low with tMeasure := 3#24 }) =
      some (.idle, 3#3) := by decide

/-- 42_bit_sampler.md R100: `T_BITSTART + 2` Low samples are `BitStartTimeout`, code 2. -/
theorem test_bit0_late_rise :
    see (fun t => (t.pc, reasonCode t.reason)) (exec (.bit0 3 1) { inPhase .bitStart 0 .low with tBitStart := 1#24 }) =
      some (.idle, 2#3) := by decide

/-! Steps. -/

/-- A placed command is the very next step (log 5). -/
theorem test_step_placed_start : see statusWord (step (State.reset.withFetchWord 32 1)) = some 0x00180015#32 := by decide

theorem test_step_placed_phase : see (·.pc) (step (State.reset.withFetchWord 8 4)) = some .ackB := by decide

theorem test_step_bad_access : refusal (step { State.reset with agenda := [.read 0x02 4] }) = some .accessMisaligned := by decide

/-- 70_reset_and_hazards.md R180. -/
theorem test_step_reset :
    (see State.block (step { afterSuccess with agenda := [.reset], thresh := 7#24 }) = some State.reset.block) := by decide

/-! Witnesses: for each statement with hypotheses, a state and operands that meet them all, at the boundary values of its
clauses. -/

theorem reset_inv : Inv State.reset := by constructor <;> decide

/-- A state in the middle of an attempt, bit 5's pulse, that meets the invariants. -/
def midBit : State := { inPhase .bitMeasure 30 .low with bitIdx := 5 }

theorem midBit_inv : Inv midBit := by constructor <;> decide

theorem inValidate_inv : Inv (inValidate sampleFrame) := by constructor <;> decide

theorem afterSuccess_inv : Inv afterSuccess := by constructor <;> decide

theorem aboutToFail_inv (b : Bool) : Inv (aboutToFail b) := by cases b <;> constructor <;> decide

theorem witness_ResetLeavesTableValues :
    { afterSuccess with agenda := [.reset] }.agenda = .reset :: [] := by decide

theorem witness_StepRunsDecodedOperation :
    ({ midBit with agenda := [.tick .low] }.agenda = .tick .low :: [] ∧
        decode (.phase (phaseCode midBit.pc)) = .ok .bitMeasure) ∧
      (midBit.agenda = [] ∧ decode (.phase (phaseCode midBit.pc)) = .ok .bitMeasure) ∧
      ({ midBit with agenda := [.read 0xFC 4] }.agenda = .read 0xFC 4 :: [] ∧
        decode (.read 0xFC 4) = .ok (.reserved80 31#5 .read)) ∧
      ({ midBit with agenda := [.write 0 4 1#32] }.agenda = .write 0 4 1#32 :: [] ∧
        decode (.write 0 4 1#32) = .ok (.start 0#31)) ∧
      ({ midBit with agenda := [.symbol true 0 1] }.agenda = .symbol true 0 1 :: [] ∧
        decode (.symbol true 0 1) = .ok (.bit1 0 1)) := ⟨⟨rfl, rfl⟩, ⟨rfl, rfl⟩, ⟨rfl, rfl⟩, ⟨rfl, rfl⟩, ⟨rfl, rfl⟩⟩

/-- Accepted at 0xFC; refused by width, at 0xFE by alignment, at 0x100 by range. -/
theorem witness_StepCompletesExactlyOnAcceptedEntries :
    acceptedEvent (.read 0xFC 4) ∧ acceptedEvent (.symbol false (2 ^ 25) 0) ∧
      { State.reset with agenda := [.read 0xFE 4] }.agenda = .read 0xFE 4 :: [] ∧
      (2 : Nat) ≠ 4 ∧ 0xFE % 4 ≠ 0 ∧ 0x100 % 4 = 0 ∧ 0xFC < 0x100 :=
  ⟨by simp only [acceptedEvent, portAccess]; decide, trivial, rfl, by decide⟩

theorem witness_EncodeOfDecodeIsIdentity : decode (.read 0xFC 4) = .ok (.reserved80 31#5 .read) := rfl

theorem witness_PhaseAndStateCodes : 12 ≤ (12#4).toNat ∧ 12 ≤ (15#4).toNat := by decide

/-- Both ends of each reserved range, each in its own class. -/
theorem witness_OffsetSelectsRegister :
    0x4C#8 &&& 0x03#8 = 0#8 ∧ 0x4C#8 &&& 0xFC#8 = 0x4C#8 ∧ 0x50#8 &&& 0xF0#8 = 0x50#8 ∧ 0x5C#8 &&& 0xF0#8 = 0x50#8 ∧
      0x60#8 &&& 0xE0#8 = 0x60#8 ∧ 0x7C#8 &&& 0xE0#8 = 0x60#8 ∧ 0x80#8 &&& 0x80#8 = 0x80#8 ∧
      0xFC#8 &&& 0x80#8 = 0x80#8 ∧ 0xFC#8 &&& 0x03#8 = 0#8 ∧ ¬ (0x4C#8 &&& 0xF0#8 = 0x50#8) ∧
      ¬ (0x5C#8 &&& 0xE0#8 = 0x60#8) ∧ ¬ (0x7C#8 &&& 0x80#8 = 0x80#8) := by decide

theorem witness_CommandWordPriority :
    3#32 &&& 1#32 = 1#32 ∧ 0xFFFFFFFE#32 &&& 3#32 = 2#32 ∧ 0xFFFFFFFC#32 &&& 3#32 = 0#32 := by decide

theorem witness_IdleChangesNothing :
    ∃ s t : State, s.pc = .idle ∧ Inv s ∧ step { s with agenda := [.write 0 4 1#32] } = .next t ∧ t.pc ≠ .idle :=
  ⟨State.reset, _, rfl, reset_inv, rfl, by decide⟩

/-- The hypotheses of a hold phase: shorter than its time, and exactly its time, for the times 0 and 2. -/
def HoldWitness (p : Phase) (time : State → Ticks) : Prop :=
  (∃ s : State, s.pc = p ∧ s.elapsed.toNat = 2 ^ 24) ∧
  (∃ (s : State) (ls : List Level), s.pc = p ∧ s.elapsed = 0#32 ∧ ls.length < max (time s).toNat 1 ∧ ls ≠ []) ∧
    (∃ (s : State) (ls : List Level), s.pc = p ∧ s.elapsed = 0#32 ∧ ls.length = max (time s).toNat 1 ∧ time s = 0#24) ∧
    (∃ (s : State) (ls : List Level), s.pc = p ∧ s.elapsed = 0#32 ∧ ls.length = max (time s).toNat 1 ∧ time s = 2#24)

theorem witness_hold {p : Phase} {time : State → Ticks} (zero two : State)
    (hz : zero.pc = p ∧ zero.elapsed = 0#32 ∧ time zero = 0#24)
    (ht : two.pc = p ∧ two.elapsed = 0#32 ∧ time two = 2#24) : HoldWitness p time :=
  ⟨⟨{ two with elapsed := 0x1000000#32 }, ht.1, rfl⟩, ⟨two, [.low], ht.1, ht.2.1, by rw [ht.2.2]; decide, by decide⟩,
    ⟨zero, [.high], hz.1, hz.2.1, by rw [hz.2.2]; decide, hz.2.2⟩,
    ⟨two, [.low, .high], ht.1, ht.2.1, by rw [ht.2.2]; decide, ht.2.2⟩⟩

/-- The drive of a start signal: the two invariant states and the boundary lengths, for times 0 and 2. -/
theorem witness_drive :
    (Inv (startCommand State.reset) ∧ (startCommand State.reset).pc = .startA) ∧
      (Inv { startCommand State.reset with pc := .startB, lineOut := .low } ∧
        { startCommand State.reset with pc := .startB, lineOut := .low }.pc = .startB) ∧
      (∀ n : Ticks, n = 0#24 ∨ n = 2#24 → ∃ s : State, s.pc = .idle ∧ s.tStartA = n ∧ s.tStartB = n ∧
        (∃ ls : List Level, ls.length < max s.tStartA.toNat 1) ∧ (∃ ls : List Level, ls.length = max s.tStartA.toNat 1) ∧
        (∃ ls : List Level, max s.tStartA.toNat 1 ≤ ls.length ∧
          ls.length < max s.tStartA.toNat 1 + max s.tStartB.toNat 1) ∧
        (∃ ls : List Level, ls.length = max s.tStartA.toNat 1 + max s.tStartB.toNat 1)) := by
  refine ⟨⟨by constructor <;> decide, rfl⟩, ⟨by constructor <;> decide, rfl⟩, ?_⟩
  rintro n (rfl | rfl)
  · exact ⟨{ State.reset with tStartA := 0#24, tStartB := 0#24 }, rfl, rfl, rfl, ⟨[], by decide⟩, ⟨[.low], by decide⟩,
      ⟨[.low], by decide⟩, ⟨[.low, .high], by decide⟩⟩
  · exact ⟨{ State.reset with tStartA := 2#24, tStartB := 2#24 }, rfl, rfl, rfl, ⟨[.low], by decide⟩,
      ⟨[.low, .high], by decide⟩, ⟨[.low, .high, .low], by decide⟩, ⟨[.low, .high, .low, .high], by decide⟩⟩

theorem witness_StartAHoldsFirstLevel : HoldWitness .startA (fun s => s.tStartA) :=
  witness_hold { inPhase .startA 0 .low with tStartA := 0#24 } { inPhase .startA 0 .low with tStartA := 2#24 } (by decide) (by decide)

theorem witness_StartBHoldsThenReleases : HoldWitness .startB (fun s => s.tStartB) :=
  witness_hold { inPhase .startB 0 .low with tStartB := 0#24 } { inPhase .startB 0 .low with tStartB := 2#24 } (by decide) (by decide)

theorem witness_SettleDelays : HoldWitness .settle (fun s => s.tSettle) :=
  witness_hold { inPhase .settle 0 .low with tSettle := 0#24 } { inPhase .settle 0 .low with tSettle := 2#24 } (by decide) (by decide)

theorem witness_BackoffRetriesAfterDelay : HoldWitness .backoff (fun s => s.tBackoff) :=
  witness_hold { inPhase .backoff 0 .low with tBackoff := 0#24 } { inPhase .backoff 0 .low with tBackoff := 2#24 } (by decide) (by decide)

theorem witness_BackoffRetriesAfterDelay_entry :
    (aboutToFail true).pc ≠ .backoff ∧ (engineTick .high (aboutToFail true)).pc = .backoff := by decide

/-- The hypotheses of a wait phase at timeout 0, entered with `elapsed = entry`: the longest wait that can still end, and
the one that times out. -/
def WaitWitness (p : Phase) (target : Level) (timeout : State → Ticks) (entry : Nat) : Prop :=
  ∃ s : State, s.pc = p ∧ s.elapsed.toNat = entry ∧ (timeout s).toNat = 0 ∧
    (∃ ls : List Level, (∀ l ∈ ls, l ≠ target) ∧ entry + ls.length = (timeout s).toNat + 1) ∧
    (∃ ls : List Level, (∀ l ∈ ls, l ≠ target) ∧ entry + ls.length = (timeout s).toNat + 2)

theorem witness_wait {p : Phase} {target : Level} {timeout : State → Ticks} {entry : Nat} (he : entry ≤ 1) (s : State)
    (hs : s.pc = p ∧ s.elapsed.toNat = entry ∧ (timeout s).toNat = 0) : WaitWitness p target timeout entry := by
  have hne : target.opposite ≠ target := by cases target <;> decide
  have hrep : ∀ n, ∀ l ∈ List.replicate n target.opposite, l ≠ target := by
    intro n l hl
    rw [List.eq_of_mem_replicate hl]
    exact hne
  refine ⟨s, hs.1, hs.2.1, hs.2.2, ⟨List.replicate (1 - entry) target.opposite, hrep _, ?_⟩,
    ⟨List.replicate (2 - entry) target.opposite, hrep _, ?_⟩⟩ <;>
    rw [hs.2.2, List.length_replicate] <;> omega

theorem witness_AckARequiresLow : WaitWitness .ackA .low (fun s => s.tAck) 0 :=
  witness_wait (by decide) { inPhase .ackA 0 .low with tAck := 0#24 } (by decide)

theorem witness_AckBRequiresHigh : WaitWitness .ackB .high (fun s => s.tAck) 0 :=
  witness_wait (by decide) { inPhase .ackB 0 .low with tAck := 0#24 } (by decide)

theorem witness_AckCRequiresLowAgain : WaitWitness .ackC .low (fun s => s.tAck) 0 :=
  witness_wait (by decide) { inPhase .ackC 0 .low with tAck := 0#24 } (by decide)

theorem witness_AckCRequiresLowAgain_invariant :
    Inv (inPhase .ackC 79 .low) ∧ (inPhase .ackC 79 .low).pc = .ackC ∧
      (engineTick .low (inPhase .ackC 79 .low)).pc = .bitStart :=
  ⟨by constructor <;> decide, rfl, by decide⟩

theorem witness_BitStartWaitsForRise : WaitWitness .bitStart .high (fun s => s.tBitStart) 0 :=
  witness_wait (by decide) { inPhase .bitStart 0 .low with tBitStart := 0#24 } (by decide)

theorem witness_BitMeasureClassifiesAndPacks : WaitWitness .bitMeasure .low (fun s => s.tMeasure) 1 :=
  witness_wait (by decide) { inPhase .bitMeasure 1 .low with tMeasure := 0#24 } (by decide)

theorem witness_BitEndGoesToNextBitOrValidate : WaitWitness .bitEnd .low (fun s => s.tBitEnd) 0 :=
  witness_wait (by decide) { inPhase .bitEnd 0 .low with tBitEnd := 0#24 } (by decide)

theorem witness_ClassificationIsStrictComparison :
    (45#32).toNat = (45#24).toNat ∧ (46#32).toNat > (45#24).toNat ∧ midBit.pc = .bitMeasure ∧ midBit.lineIn = .low ∧
      (4 : Fin 40) ≠ midBit.bitIdx := by decide

theorem witness_PackingWritesOneBit :
    frameBit Frame.zero 39 = false ∧ Inv midBit ∧ midBit.pc = .bitMeasure := ⟨by decide, midBit_inv, rfl⟩

theorem witness_FramePositionsInResultRegisters :
    midBit.pc = .bitMeasure ∧ midBit.lineIn = .low ∧ (inValidate sampleFrame).pc = .validate ∧
      (inValidate sampleFrame).x.b4 = checksum (inValidate sampleFrame).x ∧ (31 : Fin 40).val < 32 ∧
      32 ≤ (32 : Fin 40).val := by decide

theorem witness_ValidatePublishesOrDiscards :
    afterSuccess.pc ≠ .validate ∧ (engineTick .low afterSuccess).rstate = .success ∧ Inv (inValidate sampleFrame) ∧
      (inValidate sampleFrame).pc = .validate ∧
      sampleFrame.b0 + sampleFrame.b1 + sampleFrame.b2 + sampleFrame.b3 = sampleFrame.b4 ∧
      (1#8 + 0#8 + 0#8 + 0#8 : Byte) ≠ 0#8 := ⟨by decide, by decide, inValidate_inv, rfl, by decide, by decide⟩

theorem witness_AcceptanceIsExactlyTheChecksum :
    (inValidate sampleFrame).pc = .validate ∧ (0xA9#8 : Byte) ≠ frameGet sampleFrame 4 ∧
      (∃ t, exec .validate { inValidate Frame.zero with x := sampleFrame } = .next t ∧ t.rstate = .success) ∧
      (∃ u, exec .validate { inValidate Frame.zero with x := frameSet sampleFrame 4 0xA9#8 } = .next u) :=
  ⟨by decide, by decide, ⟨_, rfl, by decide⟩, ⟨_, rfl⟩⟩

/-- One sample past the budget, in each wait phase; and a mismatch. -/
theorem witness_FailureEntryWritesExactly :
    State.reset.reason = .none ∧
      (∀ i p budget off r code,
        (i, p, budget, off, r, code) ∈
          [(Instr.ackA, Phase.ackA, State.reset.tAck, Level.high, Reason.sensorUnresponsive, 1#3),
           (Instr.ackB, Phase.ackB, State.reset.tAck, Level.low, Reason.sensorUnresponsive, 1#3),
           (Instr.ackC, Phase.ackC, State.reset.tAck, Level.high, Reason.sensorUnresponsive, 1#3),
           (Instr.bitStart, Phase.bitStart, State.reset.tBitStart, Level.low, Reason.bitStartTimeout, 2#3),
           (Instr.bitMeasure, Phase.bitMeasure, State.reset.tMeasure, Level.high, Reason.bitMeasureTimeout, 3#3),
           (Instr.bitEnd, Phase.bitEnd, State.reset.tBitEnd, Level.high, Reason.bitEndTimeout, 4#3)] →
        ∃ s : State, s.pc = p ∧ s.lineIn = off ∧ budget.toNat < s.elapsed.toNat) ∧
      (inValidate ⟨1#8, 0#8, 0#8, 0#8, 0#8⟩).pc = .validate ∧
      checksum (inValidate ⟨1#8, 0#8, 0#8, 0#8, 0#8⟩).x ≠ (inValidate ⟨1#8, 0#8, 0#8, 0#8, 0#8⟩).x.b4 := by
  refine ⟨rfl, ?_, rfl, by decide⟩
  intro i p budget off r code _
  exact ⟨{ inPhase p 0 off with elapsed := budget.setWidth 32 + 1#32 }, rfl, rfl, by
    show budget.toNat < (budget.setWidth 32 + 1#32).toNat
    have := budget.isLt
    rw [BitVec.toNat_add, BitVec.toNat_setWidth]
    simp
    omega⟩

theorem witness_StartBeginsAttemptWhenIdle :
    State.reset.pc = .idle ∧ midBit.pc ≠ .idle ∧ (inPhase .backoff 119999 .low).pc = .backoff ∧
      (inPhase .backoff 119999 .low).elapsed.toNat ≤ 2 ^ 24 ∧
      (inPhase .backoff 119999 .low).tBackoff.toNat ≤ (inPhase .backoff 119999 .low).elapsed.toNat + 1 := by decide

theorem witness_AckReturnsToIdleState :
    (afterSuccess.pc = .idle ∧ afterSuccess.rstate = .success) ∧
      ¬ (State.reset.pc = .idle ∧ (State.reset.rstate = .success ∨ State.reset.rstate = .failure)) := by decide

theorem witness_NopAndCommandReadChangeNothing : (3#32).getLsbD 0 = true ∧ (3#32).getLsbD 1 = true := by decide

theorem witness_StatusShowsFields : Inv afterSuccess ∧ afterSuccess.rvalid = true := ⟨afterSuccess_inv, rfl⟩

theorem witness_IflagClearsWrittenOnes :
    (writeRegister 0x08 2#32 { State.reset with okIf := true, failIf := true }).okIf = true ∧
      (writeRegister 0x08 1#32 { State.reset with okIf := true, failIf := true }).failIf = true := by decide

theorem witness_CfgStoresWhileIdle : State.reset.pc = .idle ∧ midBit.pc ≠ .idle := by decide

theorem witness_TimeRegistersStoreWhileIdle :
    State.reset.pc = .idle ∧ midBit.pc ≠ .idle ∧
      Instr.tBackoff (.write 0#32) ∈ [Instr.thresh (.write 0#32), .tBackoff (.write 0#32)] := by decide

theorem witness_ResultRegistersAreViews :
    (Inv midBit ∧ midBit.rstate = .acquiring ∧ 0x44 ∈ [0x38, 0x3C, 0x40, 0x44]) ∧
      (∃ s : State, s.pc = .validate ∧ s.autoRetry = true ∧ checksum s.x ≠ s.x.b4) ∧
      (∃ s : State, s.pc = .backoff ∧ (engineTick .low s).pc = .backoff) :=
  ⟨⟨midBit_inv, rfl, by decide⟩,
    ⟨{ inValidate ⟨1#8, 0#8, 0#8, 0#8, 0#8⟩ with autoRetry := true }, rfl, rfl, by decide⟩,
    ⟨inPhase .backoff 0 .low, rfl, by decide⟩⟩

theorem witness_IenGatesOnlyTheInterrupt : (0x10 : Nat) ≠ 0x0C ∧ (0x08 : Nat) ≠ 0x0C := by decide

theorem witness_InterruptLevel :
    { afterSuccess with agenda := [.write 0x08 4 1#32] }.agenda = .write 0x08 4 1#32 :: [] ∧
      { afterSuccess with agenda := [.write 0x0C 4 1#32] }.agenda = .write 0x0C 4 1#32 :: [] := by decide

theorem witness_ReadStepReturnsRegister :
    { midBit with agenda := [.read 0xFC 4] }.agenda = .read 0xFC 4 :: [] ∧ 0xFC % 4 = 0 ∧ 0xFC ≤ 0xFC := by decide

/-- Each class of offsets at its boundaries: 0x00, 0x04, 0x08, 0x0C, 0x10, 0x34, 0x38, 0xFC fall under one clause each. -/
theorem witness_WriteStepEffectByOffset :
    (∀ addr ∈ [0x00, 0x04, 0x08, 0x0C, 0x10, 0x34, 0x38, 0xFC],
      { State.reset with agenda := [.write addr 4 1#32] }.agenda = .write addr 4 1#32 :: [] ∧ addr % 4 = 0 ∧ addr ≤ 0xFC) ∧
      decode (.write 0x00 4 1#32) = .ok (.start 0#31) ∧
      (0x10 ≤ 0x34 ∧ 0x34 ≤ 0x34 ∧ State.reset.pc = .idle ∧ midBit.pc ≠ .idle) ∧
      ((0x10 : Nat) ≠ 0x34 ∧ 0x10 ≤ 0x10) ∧ 0x38 ≤ 0x38 ∧ ¬ (0x38 ≤ 0x34) ∧ ¬ (0x10 ≤ 0x0C) := by
  refine ⟨by decide, rfl, by decide⟩

theorem witness_ConfigurationIsConstantWhileBusy :
    { midBit with agenda := [.write 0x10 4 3#32] }.agenda = .write 0x10 4 3#32 :: [] ∧ 0x10 % 4 = 0 ∧ midBit.pc ≠ .idle ∧
      { State.reset with agenda := [.write 0x34 4 3#32] }.agenda = .write 0x34 4 3#32 :: [] ∧ 0x34 % 4 = 0 ∧
      State.reset.pc = .idle ∧
      (∃ t, step { midBit with agenda := [.tick .low] } = .next t) ∧
      (∀ rest, { midBit with agenda := [.tick .low] }.agenda ≠ .reset :: rest) :=
  ⟨rfl, by decide, by decide, rfl, by decide, rfl, ⟨_, rfl⟩, by intro rest h; simp at h⟩

/-- The longest gap and pulse that are sampled as a bit, and one tick more of each. -/
theorem witness_SymbolIsOneClassifiedBit :
    (inPhase .bitStart 0 .low).pc = .bitStart ∧ (inPhase .bitStart 0 .low).elapsed = 0#32 ∧
      1001 ≤ (inPhase .bitStart 0 .low).tBitStart.toNat + 1 ∧ 1 ≤ 2001 ∧
      2001 ≤ (inPhase .bitStart 0 .low).tMeasure.toNat + 1 ∧ (inPhase .bitStart 0 .low).tMeasure.toNat + 2 ≤ 2002 ∧
      (inPhase .bitStart 0 .low).tBitStart.toNat + 2 ≤ 1002 := by decide

theorem witness_FortySymbolsMakeOneFrame :
    (inPhase .bitStart 0 .low).pc = .bitStart ∧ (inPhase .bitStart 0 .low).bitIdx = 0 ∧
      (inPhase .bitStart 0 .low).elapsed = 0#32 ∧ (inPhase .bitStart 0 .low).x = Frame.zero ∧
      (List.replicate 40 (0, 1)).length = 40 ∧
      ∀ p ∈ List.replicate 40 (0, 1),
        p.1 ≤ (inPhase .bitStart 0 .low).tBitStart.toNat + 1 ∧ 1 ≤ p.2 ∧
          p.2 ≤ (inPhase .bitStart 0 .low).tMeasure.toNat + 1 := by
  refine ⟨rfl, rfl, rfl, rfl, by simp, ?_⟩
  intro p hp
  rw [List.eq_of_mem_replicate hp]
  decide

/-- The shortest attempt (70_reset_and_hazards.md R195): no gap, forty pulses of one tick, the all-zero frame; and one
pulse above the threshold in place of the last, which makes a frame whose sum is wrong. -/
theorem witness_WellFormedAttemptDecodesItsPulses (w : Nat) (hw : w = 1 ∨ w = 46) :
    State.reset.pc = .idle ∧
      (List.replicate 70040 Level.low).length =
        max State.reset.tStartA.toNat 1 + max State.reset.tStartB.toNat 1 + max State.reset.tSettle.toNat 1 ∧
      0 ≤ State.reset.tAck.toNat + 1 ∧ 2002 ≤ State.reset.tAck.toNat + 2 ∧
      (List.replicate 39 (0, 1) ++ [(0, w)]).length = 40 ∧
      ∀ p ∈ List.replicate 39 (0, 1) ++ [(0, w)],
        p.1 ≤ State.reset.tBitStart.toNat + 1 ∧ 1 ≤ p.2 ∧ p.2 ≤ State.reset.tMeasure.toNat + 1 := by
  refine ⟨rfl, by rw [List.length_replicate]; decide, by decide, by decide, by simp, ?_⟩
  intro p hp
  rcases List.mem_append.1 hp with h | h
  · rw [List.eq_of_mem_replicate h]; decide
  · rw [List.mem_singleton.1 h]; rcases hw with rfl | rfl <;> decide

theorem witness_EveryStepKeepsInvariant : Inv midBit ∧ ∃ t, step { midBit with agenda := [.tick .low] } = .next t :=
  ⟨midBit_inv, _, rfl⟩

theorem witness_EveryStepKeepsInvariant_inv : Inv { midBit with agenda := [.tick .low] } := by constructor <;> decide

theorem witness_HostCannotCancelAttempt :
    hostAccess (.write 0x10 4 0#32) ∧ (∃ t, step { midBit with agenda := [.write 0x10 4 0#32] } = .next t) ∧
      midBit.pc ≠ .idle ∧ (∃ t, step { midBit with agenda := [.tick .low] } = .next t ∧ t.pc ≠ midBit.pc) :=
  ⟨by simp only [hostAccess, portAccess]; decide, ⟨_, rfl⟩, by decide, ⟨_, rfl, by decide⟩⟩

theorem witness_PhaseMovesOnlyAlongGraph :
    (∃ t, step { midBit with agenda := [.tick .low] } = .next t) ∧ (∃ t, step { midBit with agenda := [] } = .next t) ∧
      (hostAccess (.read 0 4) ∧ ∃ t, step { midBit with agenda := [.read 0 4] } = .next t) ∧
      (∃ t, step { midBit with agenda := [.reset] } = .next t) ∧
      (∃ t, step { midBit with agenda := [.symbol true 0 1] } = .next t) :=
  ⟨⟨_, rfl⟩, ⟨_, rfl⟩, ⟨by simp only [hostAccess, portAccess]; decide, _, rfl⟩, ⟨_, rfl⟩, ⟨_, rfl⟩⟩

theorem witness_RetryStateTransitions :
    Inv { midBit with agenda := [.tick .low] } ∧ (∃ t, step { midBit with agenda := [.tick .low] } = .next t) ∧
      ∀ b gap width rest, { midBit with agenda := [.tick .low] }.agenda ≠ .symbol b gap width :: rest :=
  ⟨witness_EveryStepKeepsInvariant_inv, ⟨_, rfl⟩, by intro b gap width rest h; simp at h⟩

theorem witness_OutcomeIsFunctionOfConfigAndSamples :
    State.reset.pc = .idle ∧ afterSuccess.pc = .idle ∧ SameConfig State.reset afterSuccess := by decide

/-- An attempt with a `STATUS` read between two ticks. -/
theorem witness_HostAccessesDoNotDisturbAttempt :
    (∀ e ∈ [Event.tick .high, .read 0x04 4, .tick .low], (∃ l, e = .tick l) ∨ hostAccess e) ∧
      ∀ before e after, [Event.tick .high, .read 0x04 4, .tick .low] = before ++ e :: after → hostAccess e →
        (runSamples (tickSamples before) midBit).pc ≠ .idle := by
  constructor
  · intro e he
    simp only [List.mem_cons, List.not_mem_nil, or_false] at he
    rcases he with rfl | rfl | rfl
    · exact Or.inl ⟨_, rfl⟩
    · exact Or.inr (by simp only [hostAccess, portAccess]; decide)
    · exact Or.inl ⟨_, rfl⟩
  · intro before e after h he
    match before, h with
    | [], h => simp only [List.nil_append, List.cons.injEq] at h; rw [← h.1] at he; exact he.elim
    | [a], h =>
      simp only [List.cons_append, List.nil_append, List.cons.injEq] at h
      rw [← h.1]
      decide
    | [a, b], h =>
      simp only [List.cons_append, List.nil_append, List.cons.injEq] at h
      rw [← h.2.2.1] at he
      exact he.elim
    | a :: b :: c :: rest, h => simp at h

/-- A failure at bit 39 (42_bit_sampler.md R105). -/
theorem witness_FailedAttemptLeavesNoBits :
    ∃ s : State, Inv s ∧ s.pc = .bitEnd ∧ s.bitIdx = 39 ∧ (engineTick .high s).rstate = .failure ∧ s.rstate ≠ .failure :=
  ⟨{ inPhase .bitEnd 1001 .high with bitIdx := 39, x := sampleFrame }, by constructor <;> decide, rfl, rfl, by decide, by decide⟩

theorem witness_FlagsSetByEngineClearedByHost :
    (∃ t, step { inValidate sampleFrame with agenda := [.tick .low] } = .next t ∧ t.okIf = true) ∧
      (∃ t, step { aboutToFail false with agenda := [.tick .high] } = .next t ∧ t.failIf = true) ∧
      (∃ t, step { afterSuccess with agenda := [.write 8 4 1#32] } = .next t ∧ t.okIf = false) ∧
      (∃ t, step { midBit with failIf := true, agenda := [.write 8 4 2#32] } = .next t ∧ t.failIf = false) :=
  ⟨⟨_, rfl, by decide⟩, ⟨_, rfl, by decide⟩, ⟨_, rfl, by decide⟩, ⟨_, rfl, by decide⟩⟩

theorem witness_ResultHeldUntilNextStart :
    Inv { afterSuccess with agenda := [.tick .high] } ∧
      (∃ t, step { afterSuccess with agenda := [.tick .high] } = .next t) ∧ afterSuccess.rvalid = true :=
  ⟨by constructor <;> decide, ⟨_, rfl⟩, rfl⟩

theorem witness_ReadingIsFirstAndThirdByte :
    (inValidate sampleFrame).pc = .validate ∧
      (inValidate sampleFrame).x.b4 = checksum (inValidate sampleFrame).x ∧
      Inv { aboutToFail false with agenda := [.tick .high] } ∧
      (∃ t, step { aboutToFail false with agenda := [.tick .high] } = .next t ∧ t.rstate = .failure) :=
  ⟨rfl, by decide, by constructor <;> decide, ⟨_, rfl, by decide⟩⟩

theorem witness_SampleIgnoredOutsideWaits : ¬ waitPhaseOf State.reset.pc ∧ ¬ waitPhaseOf (inValidate sampleFrame).pc := by
  decide

/-- 70_reset_and_hazards.md R195: 236247 ticks after reset; the start signal and settling take 70040. -/
theorem witness_EveryAttemptEndsWithinBound :
    State.reset.pc = .idle ∧ attemptBound State.reset = 236247 ∧
      (List.replicate 236247 Level.low).length = attemptBound State.reset ∧
      (List.replicate 70040 Level.low).length ≤
        max State.reset.tStartA.toNat 1 + max State.reset.tStartB.toNat 1 + max State.reset.tSettle.toNat 1 := by
  refine ⟨rfl, by decide, by rw [List.length_replicate]; decide, by rw [List.length_replicate]; decide⟩

theorem witness_SilentLineRetriesForever :
    { State.reset with autoRetry := true }.pc = .idle ∧ { State.reset with autoRetry := true }.autoRetry = true := by decide

end Sys2Proof.Tests
end

section

namespace Sys2Proof.Machine

/-- 70_reset_and_hazards.md R181: nothing of the block survives a reset; what `applyReset` keeps (log 6) lies outside it. -/
@[simp] theorem applyReset_block (s : State) : (applyReset s).block = State.reset.block := rfl

theorem step_reset_block {s : State} {rest : List Event} (h : s.agenda = .reset :: rest) :
    ∃ t, step s = .next t ∧ t.block = State.reset.block :=
  ⟨_, step_reset h, applyReset_block _⟩

/-- 60_exceptions.md R165: no flag is set at reset. -/
@[simp] theorem irq_reset : irq State.reset = false := rfl

/-- 45_host_interface.md R135: no field of `STATUS` is set at reset. -/
@[simp] theorem statusWord_reset : statusWord State.reset = 0#32 := by decide

/-- Settles O1: a reset step is `applyReset`, which keeps nothing of the block; the values of 10_state.md R39 are those
the reset state is written with. -/
theorem resetLeavesTableValues : Obligations.ResetLeavesTableValues := by
  unfold Obligations.ResetLeavesTableValues
  refine ⟨fun s rest h => step_reset_block h, ?_⟩
  simp only [irq_reset, statusWord_reset]
  decide

end Sys2Proof.Machine

end

section

namespace Sys2Proof.Machine

@[simp] theorem levelBit_bitLevel (b : Bool) : levelBit (bitLevel b) = BitVec.ofBool b := by cases b <;> rfl

/-- 10_state.md R27: a time register keeps bits 23:0 of the word written. -/
theorem ticksWord_wordTicks (v : Word) : ticksWord (wordTicks v) = v &&& ~~~0xFF000000#32 :=
  (BitVec.setWidth_eq_append (by decide)).trans (BitVec.and_setWidth_allOnes 8 24 v).symm

/-- A register of two flags in bits 1:0 shows them above thirty zeros. -/
theorem flagPair_append (w : BitVec 2) :
    0#30 ++ BitVec.ofBool (w.getLsbD 1) ++ BitVec.ofBool (w.getLsbD 0) = 0#30 ++ w := by
  revert w
  decide

/-- 45_host_interface.md R138: `CFG` keeps bits 1:0 of the word written. -/
theorem cfgWord_storeCfg (v : Word) (s : State) : cfgWord (storeCfg v s) = v &&& ~~~0xFFFFFFFC#32 := by
  have bit0 : v.getLsbD 0 = (v.setWidth 2).getLsbD 0 := by simp
  have bit1 : v.getLsbD 1 = (v.setWidth 2).getLsbD 1 := by simp
  simp only [cfgWord, storeCfg, levelBit_bitLevel, bit0, bit1]
  exact (flagPair_append (v.setWidth 2)).trans (BitVec.and_setWidth_allOnes 30 2 v).symm

/-- A write to a configuration register while `pc = IDLE` is read back from it, less the reserved bits
(20_memory.md R47; 45_host_interface.md R138 to R147). -/
theorem readRegister_writeRegister_config {addr : Nat} (v : Word) {s : State} (ha : addr % 4 = 0) (hl : 0x10 ≤ addr)
    (hu : addr ≤ 0x34) (hi : s.pc = .idle) : readRegister addr (writeRegister addr v s) = v &&& ~~~reservedBits addr := by
  have offsets : addr = 0x10 ∨ addr = 0x14 ∨ addr = 0x18 ∨ addr = 0x1C ∨ addr = 0x20 ∨ addr = 0x24 ∨ addr = 0x28 ∨
      addr = 0x2C ∨ addr = 0x30 ∨ addr = 0x34 := by omega
  rcases offsets with rfl | rfl | rfl | rfl | rfl | rfl | rfl | rfl | rfl | rfl <;>
    rw [writeRegister, storeWhenIdle_idle hi]
  · exact cfgWord_storeCfg v s
  all_goals exact ticksWord_wordTicks v

/-- A write to a configuration register while busy is ignored in full (20_memory.md R47), and so is one to any offset
above them (45_host_interface.md R148, R149). -/
theorem writeRegister_config_busy {addr : Nat} (v : Word) {s : State} (hl : 0x10 ≤ addr) (hb : s.pc ≠ .idle) :
    writeRegister addr v s = s := by
  rcases writeRegister_cases addr v s with ⟨h, _⟩ | ⟨h, _⟩ | ⟨h, _⟩ | ⟨_, hi, _⟩ | ⟨hi, _⟩ | h
  · omega
  · omega
  · omega
  · exact absurd hi hb
  · exact absurd hi hb
  · exact h

/-- No command writes a configuration register (45_host_interface.md R132 to R134). -/
theorem commandWrite_config (v : Word) (s : State) : SameConfig s (commandWrite v s) := by
  unfold commandWrite startCommand ackCommand
  repeat' split
  all_goals rfl

/-- While busy no write, at any offset, changes the configuration (20_memory.md R47). -/
theorem writeRegister_keeps_config (addr : Nat) (v : Word) {s : State} (hb : s.pc ≠ .idle) :
    SameConfig s (writeRegister addr v s) := by
  rcases writeRegister_cases addr v s with ⟨_, h⟩ | ⟨_, h⟩ | ⟨_, h⟩ | ⟨_, hi, _⟩ | ⟨hi, _⟩ | h
  · rw [h]; exact commandWrite_config v s
  · rw [h]; rfl
  · rw [h]; rfl
  · exact absurd hi hb
  · exact absurd hi hb
  · rw [h]

/-- Out of IDLE no step but a reset changes the configuration (20_memory.md R47). -/
theorem step_keeps_config {s t : State} (h : step s = .next t) (hb : s.pc ≠ .idle)
    (hr : ∀ rest, s.agenda ≠ .reset :: rest) : SameConfig s t := by
  rcases step_cases h with ⟨_, rfl⟩ | ⟨l, rest, _, rfl⟩ | ⟨addr, n, rest, _, _, rfl⟩ | ⟨addr, n, v, rest, _, _, rfl⟩ |
    ⟨b, gap, width, rest, _, rfl⟩ | ⟨rest, ha, _⟩
  · exact tickPhase_config (takeFreeSample s)
  · exact engineTick_config l { s with agenda := rest }
  · rfl
  · exact writeRegister_keeps_config addr v (s := { s with agenda := rest }) hb
  · exact runSamples_config (symbolSamples gap width) { s with agenda := rest }
  · exact absurd ha (hr rest)

/-- Settles O42: a write step is `writeRegister`, whose stores to a configuration register are gated by `pc = IDLE`; and
no other step but a reset writes one. -/
theorem configurationIsConstantWhileBusy : Obligations.ConfigurationIsConstantWhileBusy := by
  unfold Obligations.ConfigurationIsConstantWhileBusy
  refine ⟨?ignored, ?stored, fun s t => step_keeps_config⟩
  case ignored =>
    intro s rest addr v h ha hl hu hb
    rw [step_write h ⟨rfl, ha, by omega⟩, writeRegister_config_busy (s := { s with agenda := rest }) v hl hb]
  case stored =>
    intro s rest addr v h ha hl hu hi
    exact ⟨_, step_write h ⟨rfl, ha, by omega⟩, readRegister_writeRegister_config v ha hl hu hi⟩

end Sys2Proof.Machine

end

section

namespace Sys2Proof.Machine

open Sys2Proof.Laws

/-- A match under a mask fixes every bit the mask covers. -/
theorem getLsbD_of_masked {n k : Nat} {v mask value : BitVec n} (h : v &&& mask = value)
    (covered : mask.getLsbD k = true) : v.getLsbD k = value.getLsbD k := by
  rw [← h, BitVec.getLsbD_and, covered, Bool.and_true]

/-- An aligned offset whose bits above its slot are `base` (30_encoding.md R69): the slot counts words from `base`. -/
theorem offset_eq_base_add_slot {o base : BitVec 8} {k : Nat} (aligned : o &&& 0x03#8 = 0#8)
    (row : o &&& BitVec.allOnes 8 <<< (2 + k) = base) : o.toNat = base.toNat + 4 * (o.extractLsb' 2 k).toNat := by
  have low : o.toNat % 4 = 0 := by
    rw [← show (o &&& 0x03#8).toNat = 0 from congrArg BitVec.toNat aligned, BitVec.toNat_and]
    exact (Nat.and_two_pow_sub_one_eq_mod o.toNat 2).symm
  have high : base.toNat = 4 * (2 ^ k * (o.toNat / 4 / 2 ^ k)) := by
    have fits : o.toNat / 2 ^ (2 + k) * 2 ^ (2 + k) < 2 ^ 8 := (Nat.div_mul_le_self _ _).trans_lt o.isLt
    rw [← row, ← BitVec.shiftLeft_ushiftRight, BitVec.toNat_shiftLeft, BitVec.toNat_ushiftRight,
      Nat.shiftRight_eq_div_pow, Nat.shiftLeft_eq, Nat.mod_eq_of_lt fits, Nat.pow_add, ← Nat.div_div_eq_div_mul,
      Nat.mul_comm, Nat.mul_assoc]
  have slot : (o.extractLsb' 2 k).toNat = o.toNat / 4 % 2 ^ k := by
    rw [BitVec.extractLsb'_toNat, Nat.shiftRight_eq_div_pow]
  calc o.toNat = 4 * (o.toNat / 4) := by omega
    _ = base.toNat + 4 * (o.extractLsb' 2 k).toNat := by rw [high, slot, ← Nat.mul_add, Nat.div_add_mod]

/-- Settles O7: an offset of the map is the one `encode` writes for its register, so the round trip of 30_encoding.md R74
reads it back; a reserved offset is its row's first offset and its slot. -/
theorem offsetSelectsRegister : Obligations.OffsetSelectsRegister := by
  unfold Obligations.OffsetSelectsRegister
  refine ⟨RoundTrip.cmd, fun a => ⟨RoundTrip.status a, RoundTrip.iflag a, RoundTrip.ien a, RoundTrip.cfg a,
    RoundTrip.thresh a, RoundTrip.tStartA a, RoundTrip.tStartB a, RoundTrip.tSettle a, RoundTrip.tAck a,
    RoundTrip.tBitStart a, RoundTrip.tMeasure a, RoundTrip.tBitEnd a, RoundTrip.tBackoff a, RoundTrip.data0 a,
    RoundTrip.data1 a, RoundTrip.reading a, RoundTrip.chk a, RoundTrip.elapsed a,
    fun o aligned => ⟨fun row => ?r4C, fun row => ?r50, fun row => ?r60, fun row => ?r80⟩⟩⟩
  case r4C =>
    have noSlot : (o.extractLsb' 2 0).toNat = 0 := BitVec.toNat_of_zero_length rfl _
    rw [offset_eq_base_add_slot (k := 0) aligned row, noSlot]
    exact RoundTrip.reserved4C a
  case r50 => rw [offset_eq_base_add_slot (k := 2) aligned row]; exact RoundTrip.reserved50 _ a
  case r60 => rw [offset_eq_base_add_slot (k := 3) aligned row]; exact RoundTrip.reserved60 _ a
  case r80 => rw [offset_eq_base_add_slot (k := 5) aligned row]; exact RoundTrip.reserved80 _ a

section DecodeCommand

variable {v : Word}

theorem decode_write_cmd : decode (.write 0x00 4 v) = .ok (decodeCmd v) := rfl

theorem decodeCmd_start (h0 : v.getLsbD 0 = true) : decodeCmd v = .start (v.extractLsb' 1 31) := if_pos h0

theorem decodeCmd_ack (h0 : v.getLsbD 0 = false) (h1 : v.getLsbD 1 = true) :
    decodeCmd v = .ack (v.extractLsb' 2 30) := by
  simp only [decodeCmd, h0, h1, Bool.false_eq_true, if_false, if_true]

theorem decodeCmd_nop (h0 : v.getLsbD 0 = false) (h1 : v.getLsbD 1 = false) :
    decodeCmd v = .nop (v.extractLsb' 2 30) := by
  simp only [decodeCmd, h0, h1, Bool.false_eq_true, if_false]

end DecodeCommand

/-- Settles O8: the mask covers the bits that select the command, and the value under it says what they are. -/
theorem commandWordPriority : Obligations.CommandWordPriority := by
  unfold Obligations.CommandWordPriority
  intro v
  refine ⟨fun h => ?start, fun h => ?ack, fun h => ?nop⟩ <;> rw [decode_write_cmd]
  case start => rw [decodeCmd_start (getLsbD_of_masked h rfl)]
  case ack => rw [decodeCmd_ack (getLsbD_of_masked h rfl) (getLsbD_of_masked h rfl)]
  case nop => rw [decodeCmd_nop (getLsbD_of_masked h rfl) (getLsbD_of_masked h rfl)]

/-- 30_encoding.md R70: codes 12 to 15 are those with both high bits 1. -/
theorem reservedCode_eq_append : ∀ c : BitVec 4, 12 ≤ c.toNat → c = 0b11#2 ++ c.setWidth 2 := by decide

theorem decode_reservedCode {c : BitVec 4} (h : 12 ≤ c.toNat) :
    decode (.phase c) = .ok (.phaseReserved (c.setWidth 2)) := by
  conv_lhs => rw [reservedCode_eq_append c h]
  exact RoundTrip.phaseReserved (c.setWidth 2)

/-- 10_state.md R21: the phase code stands above `RSTATE`, `RVALID` and `BUSY`. -/
theorem statusWord_phaseField (s : State) : (statusWord s).extractLsb' 4 4 = phaseCode s.pc := by
  refine (extract_append_upper _ _ (by decide)).trans ?_
  refine (extract_append_upper _ _ (by decide)).trans ?_
  refine (extract_append_upper _ _ (by decide)).trans ?_
  refine (extract_append_lower _ _ (by decide)).trans ?_
  exact extract_whole _

/-- 10_state.md R21: the RetryController's code stands above `RVALID` and `BUSY`. -/
theorem statusWord_rstateField (s : State) : (statusWord s).extractLsb' 2 2 = rstateCode s.rstate := by
  refine (extract_append_upper _ _ (by decide)).trans ?_
  refine (extract_append_upper _ _ (by decide)).trans ?_
  refine (extract_append_lower _ _ (by decide)).trans ?_
  exact extract_whole _

/-- Settles O6: the codes are the tables' by value; a phase's code is the one `encode` writes for its operation, so it
decodes to it. -/
theorem phaseAndStateCodes : Obligations.PhaseAndStateCodes := by
  unfold Obligations.PhaseAndStateCodes
  refine ⟨by decide, ?decoded, by decide, fun s => ⟨statusWord_phaseField s, statusWord_rstateField s⟩⟩
  case decoded =>
    exact ⟨RoundTrip.idle, RoundTrip.startA, RoundTrip.startB, RoundTrip.settle, RoundTrip.ackA, RoundTrip.ackB,
      RoundTrip.ackC, RoundTrip.bitStart, RoundTrip.bitMeasure, RoundTrip.bitEnd, RoundTrip.validate, RoundTrip.backoff,
      fun c => decode_reservedCode⟩

end Sys2Proof.Machine

end

section

namespace Sys2Proof.Machine

/-- The Low sample that ends a pulse (42_bit_sampler.md R101). -/
theorem tickBitMeasure_low {s : State} (hl : s.lineIn = .low) :
    tickBitMeasure s =
      { s with x := pack s.x s.bitIdx (classify s.elapsed s.thresh), elapsed := 0#32, pc := .bitEnd } :=
  waitPhase_done hl

/-- The tick of a validation that succeeds (43_frame_validator.md R110). -/
theorem tickValidate_success {s : State} (hs : checksum s.x = s.x.b4) :
    tickValidate s = succeed (publish (recordChecksums s)) :=
  if_pos hs

theorem frameBit_of_byteIndex {i : Fin 40} {k : Fin 5} (f : Frame) (h : i.val / 8 = k.val) :
    frameBit f i = (frameGet f k).getLsbD (7 - i.val % 8) := by
  obtain rfl : byteIndex i = k := Fin.ext h
  rfl

/-- A bit of the upper part of a word. -/
theorem getLsbD_append_upper {n m : Nat} (a : BitVec n) (b : BitVec m) (j : Nat) :
    (a ++ b).getLsbD (m + j) = a.getLsbD j := by
  rw [BitVec.getLsbD_append, if_neg (by omega), Nat.add_sub_cancel_left]

/-- 30_encoding.md R63: the first four bytes fill `DATA0`, the first byte most significant. -/
theorem data0Word_getLsbD (s : State) {i : Fin 40} (h : i.val < 32) :
    (data0Word s).getLsbD (31 - i.val) = frameBit s.d i := by
  have inByte : 7 - i.val % 8 < 8 := by omega
  have byte : i.val / 8 = 0 ∨ i.val / 8 = 1 ∨ i.val / 8 = 2 ∨ i.val / 8 = 3 := by omega
  rcases byte with hk | hk | hk | hk
  · rw [frameBit_of_byteIndex (k := 0) s.d hk, show 31 - i.val = 8 + (8 + (8 + (7 - i.val % 8))) by omega, data0Word,
      getLsbD_append_upper, getLsbD_append_upper, getLsbD_append_upper]
    rfl
  · rw [frameBit_of_byteIndex (k := 1) s.d hk, show 31 - i.val = 8 + (8 + (7 - i.val % 8)) by omega, data0Word,
      getLsbD_append_upper, getLsbD_append_upper, Laws.RoundTrip.lower_of_append _ _ inByte]
    rfl
  · rw [frameBit_of_byteIndex (k := 2) s.d hk, show 31 - i.val = 8 + (7 - i.val % 8) by omega, data0Word,
      getLsbD_append_upper, Laws.RoundTrip.lower_of_append _ _ inByte]
    rfl
  · rw [frameBit_of_byteIndex (k := 3) s.d hk, show 31 - i.val = 7 - i.val % 8 by omega, data0Word,
      Laws.RoundTrip.lower_of_append _ _ inByte]
    rfl

/-- 30_encoding.md R63: the fifth byte is the low byte of `DATA1`. -/
theorem data1Word_getLsbD (s : State) {i : Fin 40} (h : 32 ≤ i.val) :
    (data1Word s).getLsbD (39 - i.val) = frameBit s.d i := by
  have byte : i.val / 8 = 4 := by omega
  have bit : 39 - i.val = 7 - i.val % 8 := by omega
  rw [frameBit_of_byteIndex (k := 4) s.d byte, bit, data1Word, BitVec.getLsbD_setWidth, decide_eq_true (by omega),
    Bool.true_and]
  rfl

/-- Settles O24: the Low sample packs the bit at its position; the success publishes the frame, whose bytes the two
registers show. -/
theorem framePositionsInResultRegisters : Obligations.FramePositionsInResultRegisters := by
  unfold Obligations.FramePositionsInResultRegisters
  refine ⟨fun f i => rfl, ?sampled, ?published⟩
  case sampled =>
    intro s _ hl
    refine ⟨tickBitMeasure s, rfl, ?_⟩
    rw [tickBitMeasure_low hl]
    exact frameBit_pack_same s.x s.bitIdx _
  case published =>
    intro s _ hs
    refine ⟨tickValidate s, rfl, ?_⟩
    rw [tickValidate_success hs.symm]
    exact ⟨fun i => data0Word_getLsbD _, fun i => data1Word_getLsbD _⟩

end Sys2Proof.Machine

end

section

/-! Lengths of the hold and wait phases from their entry (40_levelwaiter.md R80, R81), and the phases of the start signal
and the acknowledgement (41_frame_acquirer.md). -/

namespace Sys2Proof.Machine

theorem lastSample_concat (ls : List Level) (l m : Level) : lastSample (ls ++ [l]) m = l := by
  simp [lastSample]

theorem eq_opposite_of_ne {l target : Level} (h : l ≠ target) : l = target.opposite :=
  match l, target, h with
  | .low, .high, _ => rfl
  | .high, .low, _ => rfl
  | .low, .low, h => absurd rfl h
  | .high, .high, h => absurd rfl h

theorem ite_high_eq_opposite (l : Level) : (if l = .high then Level.low else .high) = l.opposite := by
  cases l <;> rfl

theorem counted_elapsed_toNat {ls : List Level} {s : State} (h : s.elapsed.toNat + ls.length < 2 ^ 32) :
    (counted ls s).elapsed.toNat = s.elapsed.toNat + ls.length := by
  show (s.elapsed + BitVec.ofNat 32 ls.length).toNat = _
  rw [BitVec.toNat_add, BitVec.toNat_ofNat, Nat.add_mod_mod, Nat.mod_eq_of_lt h]

/-- 40_levelwaiter.md R81 in exact numbers, under the bound of R82 (log 13). -/
theorem holdPhase_eq_ite {t : Ticks} {g : State → State} {s : State} (bound : s.elapsed.toNat ≤ 2 ^ 24) :
    holdPhase t g s =
      if t.toNat ≤ s.elapsed.toNat + 1 then g { s with elapsed := 0#32 } else countTick s := by
  have sum : (s.elapsed + 1#32).toNat = s.elapsed.toNat + 1 := add_one_toNat (by omega)
  split
  next h => exact holdPhase_expired (by omega)
  next h => exact holdPhase_continue (by omega)

/-- 40_levelwaiter.md R80. -/
theorem waitPhase_eq_ite {target : Level} {t : Ticks} {r : Reason} {f : Word → State → State} {s : State} :
    waitPhase target t r f s =
      if s.lineIn = target then f s.elapsed s
      else if t.toNat < s.elapsed.toNat then fail r s else countTick s := by
  split
  next h => exact waitPhase_done h
  next h =>
    split
    next late => exact waitPhase_timeout h late
    next inTime => exact waitPhase_continue h (Nat.not_lt.mp inTime)

section Hold

variable {i : Instr} {p : Phase} {time : State → Ticks} {expired : State → State}

/-- Every phase whose rule is a HOLD lasts as 40_levelwaiter.md R81 says: it counts through all samples but the last, and
the last ends it. -/
theorem HoldPhase.of_tickPhase (isInstr : decodePhase (phaseCode p) = i)
    (isHold : ∀ s, s.pc = p → tickPhase s = holdPhase (time s) expired s)
    (fixed : ∀ s e m, time { s with elapsed := e, lineIn := m } = time s) : HoldPhase i p time expired := by
  have counts (s : State) (ls : List Level) (hp : s.pc = p) (he : s.elapsed = 0#32)
      (short : ls.length < max (time s).toNat 1) : runSamples ls s = counted ls s :=
    runSamples_hold isHold fixed hp ls (by simpa [he] using short)
  refine ⟨?tick, counts, ?expires⟩
  case tick =>
    intro s hp bound
    rw [← isInstr, exec_phaseCode_of hp, isHold s hp, holdPhase_eq_ite bound]
    rfl
  case expires =>
    intro s ls hp he len
    have small : (time s).toNat < 2 ^ 24 := (time s).isLt
    obtain ⟨init, l, rfl⟩ := ls.eq_nil_or_concat'.resolve_left (List.ne_nil_of_length_pos (by omega))
    rw [List.length_append, List.length_singleton] at len
    have startsAtZero : s.elapsed.toNat = 0 := by rw [he]; rfl
    have count : (counted init s).elapsed.toNat = s.elapsed.toNat + init.length := counted_elapsed_toNat (by omega)
    have up : (time (counted init s)).toNat ≤ ((counted init s).elapsed + 1#32).toNat := by
      rw [show time (counted init s) = time s from fixed s _ _, add_one_toNat (by omega)]
      omega
    rw [runSamples_append, counts s init hp he (by omega), lastSample_concat]
    exact engineTick_expired isHold fixed (s := counted init s) hp up

theorem HoldPhase.counts (h : HoldPhase i p time expired) {s : State} {ls : List Level} (hp : s.pc = p)
    (he : s.elapsed = 0#32) (short : ls.length < max (time s).toNat 1) : runSamples ls s = counted ls s := by
  obtain ⟨_, counts, _⟩ := h
  exact counts s ls hp he short

theorem HoldPhase.expires (h : HoldPhase i p time expired) {s : State} {ls : List Level} (hp : s.pc = p)
    (he : s.elapsed = 0#32) (len : ls.length = max (time s).toNat 1) :
    runSamples ls s = expired { s with elapsed := 0#32, lineIn := lastSample ls s.lineIn } := by
  obtain ⟨_, _, expires⟩ := h
  exact expires s ls hp he len

end Hold

section Wait

variable {i : Instr} {p : Phase} {target : Level} {timeout : State → Ticks} {entry : Nat} {r : Reason}
  {done : Word → State → State}

/-- Every phase whose rule is a WAIT goes from its entry as 40_levelwaiter.md R80 says: it counts through samples off
its target until `elapsed` is above the timeout; a sample at the target ends it, and one more off the target fails. -/
theorem WaitPhase.of_tickPhase (isInstr : decodePhase (phaseCode p) = i)
    (isWait : ∀ s, s.pc = p → tickPhase s = waitPhase target (timeout s) r done s)
    (fixed : ∀ s e m, timeout { s with elapsed := e, lineIn := m } = timeout s) (early : entry ≤ 1) :
    WaitPhase i p target timeout entry r done := by
  have counts (s : State) (ls : List Level) (hp : s.pc = p) (he : s.elapsed.toNat = entry)
      (off : ∀ l ∈ ls, l ≠ target) (inTime : entry + ls.length ≤ (timeout s).toNat + 1) :
      runSamples ls s = counted ls s :=
    runSamples_wait isWait fixed hp ls off (by rw [he]; exact inTime)
  refine ⟨?tick, fun s ls hp he off inTime => ⟨counts s ls hp he off inTime, ?ends⟩, ?fails⟩
  case tick =>
    intro s hp
    rw [← isInstr, exec_phaseCode_of hp, isWait s hp, waitPhase_eq_ite]
    rfl
  case ends =>
    have count : (counted ls s).elapsed = BitVec.ofNat 32 (entry + ls.length) := by
      rw [BitVec.ofNat_add, ← he, BitVec.ofNat_toNat, BitVec.setWidth_eq]
      rfl
    rw [runSamples_append, counts s ls hp he off inTime, ← count]
    exact engineTick_done isWait (s := counted ls s) hp
  case fails =>
    intro s ls hp he off len
    have small : (timeout s).toNat < 2 ^ 24 := (timeout s).isLt
    obtain ⟨init, l, rfl⟩ := ls.eq_nil_or_concat'.resolve_left (List.ne_nil_of_length_pos (by omega))
    rw [List.length_append, List.length_singleton] at len
    have count : (counted init s).elapsed.toNat = s.elapsed.toNat + init.length := counted_elapsed_toNat (by omega)
    have late : (timeout (counted init s)).toNat < (counted init s).elapsed.toNat := by
      rw [show timeout (counted init s) = timeout s from fixed s _ _]
      omega
    have last : l ≠ target := off l (by simp)
    rw [runSamples_append, counts s init hp he (fun m hm => off m (by simp [hm])) (by omega),
      ← eq_opposite_of_ne last]
    exact engineTick_timeout isWait fixed (s := counted init s) hp last late

end Wait

/-- START_A as a HOLD (41_frame_acquirer.md R90). -/
theorem holdPhase_startA :
    HoldPhase .startA .startA (fun s => s.tStartA)
      (fun t => { t with lineOut := t.startLevel.opposite, pc := .startB }) :=
  .of_tickPhase rfl tickPhase_startA fun _ _ _ => rfl

/-- START_B as a HOLD (41_frame_acquirer.md R91). -/
theorem holdPhase_startB :
    HoldPhase .startB .startB (fun s => s.tStartB) (fun t => { t with lineOe := false, pc := .settle }) :=
  .of_tickPhase rfl tickPhase_startB fun _ _ _ => rfl

/-- An attempt begun in `s`, at its entry of START_B, with `m` as the last sample (41_frame_acquirer.md R91). -/
def startBEntry (s : State) (m : Level) : State :=
  { beginAttempt s with lineIn := m, lineOut := s.startLevel.opposite, pc := .startB }

section StartSignal

variable {s : State} {ls : List Level}

theorem startCommand_idle (h : s.pc = .idle) : startCommand s = beginAttempt s := if_pos h

/-- An attempt counts in START_A for fewer than `max(T_START_A, 1)` ticks (41_frame_acquirer.md R90). -/
theorem runSamples_beginAttempt_startA (short : ls.length < max s.tStartA.toNat 1) :
    runSamples ls (beginAttempt s) = counted ls (beginAttempt s) :=
  holdPhase_startA.counts rfl rfl short

/-- An attempt enters START_B after `max(T_START_A, 1)` ticks (41_frame_acquirer.md R90). -/
theorem runSamples_beginAttempt_startB (len : ls.length = max s.tStartA.toNat 1) :
    runSamples ls (beginAttempt s) = startBEntry s (lastSample ls s.lineIn) :=
  holdPhase_startA.expires rfl rfl len

/-- A run from the start of an attempt that reaches START_B, cut there. -/
theorem runSamples_beginAttempt_cut (long : max s.tStartA.toNat 1 ≤ ls.length) :
    ∃ m rest, ls.length = max s.tStartA.toNat 1 + rest.length ∧
      runSamples ls (beginAttempt s) = runSamples rest (startBEntry s m) := by
  refine ⟨lastSample (ls.take (max s.tStartA.toNat 1)) s.lineIn, ls.drop (max s.tStartA.toNat 1), ?length, ?run⟩
  case length =>
    rw [List.length_drop]
    omega
  case run =>
    conv_lhs => rw [← List.take_append_drop (max s.tStartA.toNat 1) ls]
    rw [runSamples_append, runSamples_beginAttempt_startB (List.length_take_of_le long)]

end StartSignal

/-- Settles O12: the level is the invariant's; an accepted START enters START_A with `elapsed` 0 and the line at
START_LEVEL, and START_A is a HOLD. -/
theorem startAHoldsFirstLevel : Obligations.StartAHoldsFirstLevel := by
  unfold Obligations.StartAHoldsFirstLevel
  refine ⟨fun s h hp => ⟨h.drive.mpr (.inl hp), h.level.1 hp⟩, fun s ls idle => ?fromStart, ?hold⟩
  case fromStart =>
    rw [startCommand_idle idle]
    refine ⟨fun short => ?drives, fun len => ?ends⟩
    case drives =>
      rw [runSamples_beginAttempt_startA short]
      exact ⟨rfl, rfl, rfl⟩
    case ends =>
      rw [runSamples_beginAttempt_startB len]
      rfl
  case hold =>
    simp only [ite_high_eq_opposite]
    exact holdPhase_startA

/-- Settles O13: a run from an accepted START, cut at the end of START_A, goes on from the entry of START_B, which is a
HOLD and releases the line at its end. -/
theorem startBHoldsThenReleases : Obligations.StartBHoldsThenReleases := by
  unfold Obligations.StartBHoldsThenReleases
  refine ⟨fun s h hp => ⟨h.drive.mpr (.inr hp), h.level.2 hp⟩, fun s ls idle => ?fromStart, holdPhase_startB⟩
  rw [startCommand_idle idle]
  refine ⟨fun long short => ?drives, fun len => ?releases⟩
  case drives =>
    obtain ⟨m, rest, length, run⟩ := runSamples_beginAttempt_cut long
    have short' : rest.length < max s.tStartB.toNat 1 := by omega
    rw [run, holdPhase_startB.counts (s := startBEntry s m) rfl rfl short']
    exact ⟨rfl, rfl, rfl⟩
  case releases =>
    obtain ⟨m, rest, length, run⟩ := runSamples_beginAttempt_cut (s := s) (ls := ls) (by omega)
    have len' : rest.length = max s.tStartB.toNat 1 := by omega
    rw [run, holdPhase_startB.expires (s := startBEntry s m) rfl rfl len']
    exact ⟨rfl, rfl⟩

/-- Settles O14: SETTLE is a HOLD. -/
theorem settleDelays : Obligations.SettleDelays :=
  HoldPhase.of_tickPhase rfl tickPhase_settle fun _ _ _ => rfl

/-- Settles O16: ACK_A is a WAIT for Low. -/
theorem ackARequiresLow : Obligations.AckARequiresLow :=
  WaitPhase.of_tickPhase rfl tickPhase_ackA (fun _ _ _ => rfl) (Nat.zero_le 1)

/-- Settles O17: ACK_B is a WAIT for High. -/
theorem ackBRequiresHigh : Obligations.AckBRequiresHigh :=
  WaitPhase.of_tickPhase rfl tickPhase_ackB (fun _ _ _ => rfl) (Nat.zero_le 1)

/-- Outside the sampling phases no bit is indexed (10_state.md R37 item 11). -/
theorem Inv.bitIdx_zero {s : State} (h : Inv s) (hp : ¬ samplingPhase s.pc) : s.bitIdx = 0 :=
  Classical.byContradiction fun indexed => hp (h.index.1 indexed)

/-- ACK_C leaves `bit_idx` at 0, however it goes on (41_frame_acquirer.md R95). -/
theorem tickAckC_bitIdx {s : State} (h : s.bitIdx = 0) : (tickAckC s).bitIdx = 0 := by
  unfold tickAckC
  rw [waitPhase_eq_ite]
  repeat' split
  · exact h
  · rfl
  · exact h

/-- Settles O18: ACK_C is a WAIT for Low that no bit is indexed in, and whose rule indexes none. -/
theorem ackCRequiresLowAgain : Obligations.AckCRequiresLowAgain := by
  unfold Obligations.AckCRequiresLowAgain
  refine ⟨fun s h hp => ?index, .of_tickPhase rfl tickPhase_ackC (fun _ _ _ => rfl) (Nat.zero_le 1)⟩
  have zero : s.bitIdx = 0 := h.bitIdx_zero (by rw [hp]; decide)
  refine ⟨zero, fun l _ => ?_⟩
  rw [engineTick, tickPhase_ackC (sampleLine l s) hp]
  exact tickAckC_bitIdx zero

end Sys2Proof.Machine

end

section

/-! The three per-bit phases (42_bit_sampler.md): their waits, the comparison that classifies a bit, the frame position it
is packed at, and what a failure among them leaves. -/

namespace Sys2Proof.Machine

/-- Settles O19: BIT_START is a WAIT for High. -/
theorem bitStartWaitsForRise : Obligations.BitStartWaitsForRise :=
  WaitPhase.of_tickPhase rfl tickPhase_bitStart (fun _ _ _ => rfl) (Nat.zero_le 1)

/-- Settles O20: BIT_MEASURE is a WAIT for Low, entered with the first High sample counted. -/
theorem bitMeasureClassifiesAndPacks : Obligations.BitMeasureClassifiesAndPacks :=
  WaitPhase.of_tickPhase rfl tickPhase_bitMeasure (fun _ _ _ => rfl) (Nat.le_refl 1)

/-- Settles O21: BIT_END is a WAIT for Low. -/
theorem bitEndGoesToNextBitOrValidate : Obligations.BitEndGoesToNextBitOrValidate :=
  WaitPhase.of_tickPhase rfl tickPhase_bitEnd (fun _ _ _ => rfl) (Nat.zero_le 1)

theorem classify_eq_true_iff {d : Word} {th : Ticks} : classify d th = true ↔ th.toNat < d.toNat :=
  decide_eq_true_iff

theorem classify_eq_false_iff {d : Word} {th : Ticks} : classify d th = false ↔ d.toNat ≤ th.toNat :=
  decide_eq_false_iff_not.trans Nat.not_lt

/-- Settles O22: the Low sample packs the classification at `bit_idx`, and `pack` writes one position. -/
theorem classificationIsStrictComparison : Obligations.ClassificationIsStrictComparison := by
  unfold Obligations.ClassificationIsStrictComparison
  refine ⟨fun d th => ⟨classify_eq_true_iff, fun equal => classify_eq_false_iff.mpr equal.le⟩, fun s _ hl => ?packs⟩
  refine ⟨tickBitMeasure s, rfl, ?_⟩
  rw [tickBitMeasure_low hl]
  exact ⟨frameBit_pack_same s.x s.bitIdx _, fun j hj => frameBit_pack_other s.x _ hj⟩

theorem frameBit_pack (f : Frame) (i j : Fin 40) (b : Bool) :
    frameBit (pack f i b) j = if j = i then b else frameBit f j := by
  split
  next same => rw [same, frameBit_pack_same]
  next other => exact frameBit_pack_other f b other

/-- 30_encoding.md R63: position `8k + j` is bit `7 - j` of byte `k`. -/
theorem frameBit_byteOffset (f : Frame) (k : Fin 5) {j : Nat} (hj : j < 8) :
    frameBit f ⟨8 * k.val + j, by omega⟩ = (frameGet f k).getLsbD (7 - j) := by
  rw [frameBit_of_byteIndex f (k := k) (show (8 * k.val + j) / 8 = k.val by omega),
    show (8 * k.val + j) % 8 = j by omega]

/-- 42_bit_sampler.md R104: bit `7 - (i mod 8)` of byte `i / 8` is written and no other. -/
theorem frameGet_pack_getLsbD (f : Frame) (i : Fin 40) (b : Bool) (k : Fin 5) {m : Nat} (hm : m < 8) :
    (frameGet (pack f i b) k).getLsbD m =
      if k.val = i.val / 8 ∧ m = 7 - i.val % 8 then b else (frameGet f k).getLsbD m := by
  obtain ⟨j, hj, rfl⟩ : ∃ j, j < 8 ∧ m = 7 - j := ⟨7 - m, by omega, by omega⟩
  have samePosition : (⟨8 * k.val + j, by omega⟩ : Fin 40) = i ↔ k.val = i.val / 8 ∧ 7 - j = 7 - i.val % 8 := by
    rw [Fin.ext_iff]
    show 8 * k.val + j = i.val ↔ _
    omega
  rw [← frameBit_byteOffset _ k hj, ← frameBit_byteOffset _ k hj, frameBit_pack]
  simp only [samePosition]

/-- Setting a bit that was 0 is an OR. -/
theorem byteWithBit_eq_or {v : Byte} {k : Nat} (b : Bool) (clear : v.getLsbD k = false) :
    byteWithBit v k b = v ||| (BitVec.ofNat 8 b.toNat <<< k) := by
  cases b with
  | true => rfl
  | false =>
    have unchanged : byteWithBit v k false = v := by
      apply BitVec.eq_of_getLsbD_eq
      intro j hj
      rcases eq_or_ne j k with rfl | other
      · rw [byteWithBit_same v false hj, clear]
      · exact byteWithBit_other v false other
    rw [unchanged]
    simp

/-- Packing a bit at each position of a list writes those positions and no other. -/
theorem frameBit_foldl_pack (b : Fin 40 → Bool) (l : List (Fin 40)) (f : Frame) (j : Fin 40) :
    frameBit (l.foldl (fun f i => pack f i (b i)) f) j = if j ∈ l then b j else frameBit f j := by
  induction l generalizing f with
  | nil => rfl
  | cons i l ih =>
    rw [List.foldl_cons, ih, frameBit_pack]
    by_cases head : j = i <;> simp [head]

/-- The low `w` bits of a number, as the sum of their weights. -/
theorem mod_two_pow_eq_sum_testBit (n w : Nat) : n % 2 ^ w = ∑ i : Fin w, (n.testBit i).toNat * 2 ^ i.val := by
  induction w with
  | zero => simp [Nat.mod_one]
  | succ w ih =>
    rw [Nat.mod_pow_succ, ih, ← Nat.toNat_testBit, Nat.mul_comm, Fin.sum_univ_castSucc]
    rfl

/-- A byte is the sum of its bits' weights, first bit most significant. -/
theorem byte_toNat_eq_sum (v : Byte) : v.toNat = ∑ j : Fin 8, (v.getLsbD (7 - j.val)).toNat * 2 ^ (7 - j.val) :=
  calc v.toNat = v.toNat % 2 ^ 8 := (Nat.mod_eq_of_lt v.isLt).symm
    _ = ∑ i : Fin 8, (v.getLsbD i).toNat * 2 ^ i.val := mod_two_pow_eq_sum_testBit v.toNat 8
    _ = ∑ j : Fin 8, (v.getLsbD j.rev).toNat * 2 ^ j.rev.val := (Equiv.sum_comp Fin.revPerm _).symm
    _ = _ := by simp only [Fin.val_rev, Nat.reduceSubDiff]

/-- 42_bit_sampler.md R104: forty bits packed in order make the byte sums. -/
theorem frameGet_foldl_pack_toNat (b : Fin 40 → Bool) (k : Fin 5) :
    (frameGet ((List.finRange 40).foldl (fun f i => pack f i (b i)) Frame.zero) k).toNat =
      ∑ j : Fin 8, (b ⟨8 * k.val + j.val, by omega⟩).toNat * 2 ^ (7 - j.val) := by
  rw [byte_toNat_eq_sum]
  refine Finset.sum_congr rfl fun j _ => ?_
  rw [← frameBit_byteOffset _ k j.isLt, frameBit_foldl_pack, if_pos (List.mem_finRange _)]

/-- Settles O23: position by position, `pack` writes one bit; the invariant keeps the position being measured clear. -/
theorem packingWritesOneBit : Obligations.PackingWritesOneBit := by
  unfold Obligations.PackingWritesOneBit
  refine ⟨fun f i b k m => frameGet_pack_getLsbD f i b k, fun f i b clear => ?isOr, fun s h hp => ?clear,
    frameGet_foldl_pack_toNat⟩
  case isOr =>
    rw [pack, frameGet_frameSet_same]
    exact byteWithBit_eq_or b clear
  case clear =>
    obtain ⟨_, current, _⟩ := h.frame
    exact current (.inr hp)

/-- A tick of a wait phase that ends in `Failure` is its timeout; a phase that neither waits by the working frame nor
writes RSTATE when it goes on fails alike whatever the frame holds (42_bit_sampler.md R105). -/
theorem engineTick_failure {p : Phase} {target : Level} {budget : State → Ticks} {r : Reason}
    {f : Word → State → State} (isWait : ∀ s, s.pc = p → tickPhase s = waitPhase target (budget s) r f s)
    (frameless : ∀ s x m, budget { s with x := x, lineIn := m } = budget s) (keeps : ∀ e s, (f e s).rstate = s.rstate)
    {s : State} (hp : s.pc = p) {l : Level} (before : s.rstate ≠ .failure)
    (after : (engineTick l s).rstate = .failure) (x : Frame) :
    engineTick l { s with x := x } = fail r (sampleLine l s) := by
  rw [engineTick, isWait _ (show (sampleLine l s).pc = p from hp)] at after
  rw [engineTick, isWait _ (show (sampleLine l { s with x := x }).pc = p from hp),
    show budget (sampleLine l { s with x := x }) = budget s from frameless s x l]
  rcases waitPhase_cases (target := target) (t := budget (sampleLine l s)) (r := r) (f := f) (s := sampleLine l s) with
    ⟨_, seen⟩ | ⟨off, late, _⟩ | ⟨_, _, counts⟩
  · rw [seen, keeps] at after
    exact absurd after before
  · rw [show budget (sampleLine l s) = budget s from frameless s s.x l] at late
    exact waitPhase_timeout off late
  · rw [counts] at after
    exact absurd after before

theorem endBit_rstate (s : State) : (endBit s).rstate = s.rstate := by unfold endBit; split <;> rfl

/-- A tick that fails in a bit phase is `Fail(r)`, whatever the working frame held (42_bit_sampler.md R105). -/
theorem engineTick_bitPhase_failure {s : State} {l : Level}
    (hp : s.pc = .bitStart ∨ s.pc = .bitMeasure ∨ s.pc = .bitEnd) (before : s.rstate ≠ .failure)
    (after : (engineTick l s).rstate = .failure) :
    ∃ r, ∀ x, engineTick l { s with x := x } = fail r (sampleLine l s) := by
  rcases hp with hp | hp | hp
  · exact ⟨_, engineTick_failure tickPhase_bitStart (fun _ _ _ => rfl) (fun _ _ => rfl) hp before after⟩
  · exact ⟨_, engineTick_failure tickPhase_bitMeasure (fun _ _ _ => rfl) (fun _ _ => rfl) hp before after⟩
  · exact ⟨_, engineTick_failure tickPhase_bitEnd (fun _ _ _ => rfl) (fun _ => endBit_rstate) hp before after⟩

/-- `DATA0`, `DATA1`, `READING` and `CHK` show no result (45_host_interface.md R148). -/
theorem readRegister_result_zero {t : State} (hd : t.d = Frame.zero) (hc : t.chkCalc = 0#8) (hr : t.chkRecv = 0#8) :
    ∀ addr ∈ [0x38, 0x3C, 0x40, 0x44], readRegister addr t = 0#32 := by
  have data0 : data0Word t = 0#32 := by rw [data0Word, hd]; rfl
  have data1 : data1Word t = 0#32 := by rw [data1Word, hd]; rfl
  have reading : readingWord t = 0#32 := by rw [readingWord, hd]; rfl
  have chk : chkWord t = 0#32 := by rw [chkWord, hc, hr]; rfl
  simp only [List.forall_mem_cons]
  exact ⟨data0, data1, reading, chk, List.forall_mem_nil _⟩

/-- No register shows the working frame. -/
theorem readRegister_setX (addr : Nat) (s : State) (f : Frame) :
    readRegister addr { s with x := f } = readRegister addr s := by
  unfold readRegister
  split <;> rfl

/-- Settles O53: a failing tick of a bit phase is `Fail(r)`, which discards the frame and leaves `D` and the checksum pair
as the attempt began with them. -/
theorem failedAttemptLeavesNoBits : Obligations.FailedAttemptLeavesNoBits := by
  unfold Obligations.FailedAttemptLeavesNoBits
  refine ⟨fun s l f hp after before => ?discards, fun s l h hp after => ?shows, fun s f addr => readRegister_setX addr s f⟩
  case discards =>
    obtain ⟨r, failed⟩ := engineTick_bitPhase_failure hp before after
    rw [failed f, show engineTick l s = fail r (sampleLine l s) from failed s.x]
    exact ⟨rfl, rfl, rfl, rfl⟩
  case shows =>
    have attempt : attemptPhase s.pc := by rcases hp with hp | hp | hp <;> rw [hp] <;> decide
    obtain ⟨hd, _, _, hc, hr, acquiring⟩ := h.inAttempt attempt
    obtain ⟨r, failed⟩ := engineTick_bitPhase_failure hp (by rw [acquiring]; decide) after
    rw [show engineTick l s = fail r (sampleLine l s) from failed s.x]
    exact readRegister_result_zero hd hc hr

end Sys2Proof.Machine

end

section

/-! The validation of a frame (43_frame_validator.md): the checksum it compares, its two outcomes, and what the result
registers show after each. -/

namespace Sys2Proof.Machine

/-- 43_frame_validator.md R111: the low 8 bits of the exact sum. -/
theorem checksum_toNat (f : Frame) :
    (checksum f).toNat = (f.b0.toNat + f.b1.toNat + f.b2.toNat + f.b3.toNat) % 256 := by
  simp only [checksum, BitVec.toNat_add, Nat.mod_add_mod, Nat.reducePow]

/-- Settles O25: addition of bytes is modulo 256, and each of the four is at most 255. -/
theorem checksumIsSumModulo256 : Obligations.ChecksumIsSumModulo256 := by
  unfold Obligations.ChecksumIsSumModulo256
  intro f
  have h0 := f.b0.isLt
  have h1 := f.b1.isLt
  have h2 := f.b2.isLt
  have h3 := f.b3.isLt
  exact ⟨checksum_toNat f, by omega⟩

/-- 43_frame_validator.md R112: the one fifth byte that is accepted, in exact numbers. -/
theorem checksum_eq_iff_toNat {f : Frame} :
    checksum f = f.b4 ↔ f.b4.toNat = (f.b0.toNat + f.b1.toNat + f.b2.toNat + f.b3.toNat) % 256 := by
  rw [← checksum_toNat, BitVec.toNat_inj, eq_comm]

/-- Of the frames that agree with `f` but for one byte, at most one is accepted (43_frame_validator.md R112). -/
theorem eq_frameGet_of_checksum_frameSet {f : Frame} {k : Fin 5} {v : Byte} (accepted : checksum f = f.b4)
    (changed : checksum (frameSet f k v) = (frameSet f k v).b4) : v = frameGet f k := by
  match k with
  | 0 => exact add_right_cancel (add_right_cancel (add_right_cancel (changed.trans accepted.symm)))
  | 1 => exact add_left_cancel (add_right_cancel (add_right_cancel (changed.trans accepted.symm)))
  | 2 => exact add_left_cancel (add_right_cancel (changed.trans accepted.symm))
  | 3 => exact add_left_cancel (changed.trans accepted.symm)
  | 4 => exact changed.symm.trans accepted

/-- Errors that cancel in the sum are not detected (43_frame_validator.md R112). -/
theorem checksum_compensated (f : Frame) (e : Byte) :
    checksum { f with b0 := f.b0 + e, b1 := f.b1 - e } = checksum f :=
  congrArg (fun pair => pair + f.b2 + f.b3) (add_add_sub_cancel f.b0 f.b1 e)

/-- The tick of a validation that fails (43_frame_validator.md R110). -/
theorem tickValidate_mismatch {s : State} (hs : checksum s.x ≠ s.x.b4) :
    tickValidate s = fail .checksumMismatch (recordChecksums s) :=
  if_neg hs

theorem tickValidate_success_iff {s : State} : (tickValidate s).rstate = .success ↔ checksum s.x = s.x.b4 := by
  unfold tickValidate
  split
  next agrees => exact iff_of_true rfl agrees
  next differs => exact iff_of_false nofun differs

/-- `succeed()` is called by VALIDATE alone (44_retry_controller.md R117). -/
theorem TickOutcome.rstate_success {s t : State} (h : TickOutcome s t) (other : s.pc ≠ .validate)
    (after : t.rstate = .success) : s.rstate = .success := by
  cases h with
  | idles | counts | drivesOpposite | releases | settles | ackASeen | ackBSeen | ackCSeen | bitRises | bitMeasured =>
    exact after
  | bitEnds => exact (endBit_rstate s).symm.trans after
  | retries | timesOut => cases after
  | validates hp | mismatches hp => exact absurd hp other

/-- Settles O26: of the outcomes of a tick only a validation succeeds; the entry facts are the invariant's; and each
outcome of the comparison is its action on the state with the pair recorded. -/
theorem validatePublishesOrDiscards : Obligations.ValidatePublishesOrDiscards := by
  unfold Obligations.ValidatePublishesOrDiscards
  refine ⟨fun s l other => (tickPhase_outcome (sampleLine l s)).rstate_success other, ?entry,
    fun s _ => ⟨fun agrees => ?publishes, fun differs => ?discards⟩⟩
  case entry =>
    intro s h hp
    obtain ⟨last, zero⟩ := h.index.2 hp
    obtain ⟨hd, hv, hr, _⟩ := h.inAttempt (attempt_of hp (by decide))
    have released : ¬ s.lineOe = true := fun driven => absurd (h.drive.mp driven) (by rw [hp]; decide)
    exact ⟨last, zero, hr, Bool.eq_false_of_not_eq_true released, hv, hd⟩
  case publishes =>
    refine congrArg Host.Outcome.next ((tickValidate_success agrees).trans ?_)
    rw [recordChecksums, show checksum s.x = s.x.b4 from agrees]
    rfl
  case discards => exact congrArg Host.Outcome.next (tickValidate_mismatch differs)

/-- Settles O27: VALIDATE succeeds exactly on agreement, which one changed byte breaks and a compensated pair keeps. -/
theorem acceptanceIsExactlyTheChecksum : Obligations.AcceptanceIsExactlyTheChecksum := by
  unfold Obligations.AcceptanceIsExactlyTheChecksum
  intro s f _
  have accepts (g : Frame) : (tickValidate { s with x := g }).rstate = .success ↔ checksum g = g.b4 :=
    tickValidate_success_iff
  refine ⟨⟨tickValidate { s with x := f }, rfl, (accepts f).trans checksum_eq_iff_toNat, ?outcomes⟩, ?detected,
    ?undetected⟩
  case outcomes =>
    by_cases agrees : checksum f = f.b4
    · exact .inl ((accepts f).mpr agrees)
    · rw [tickValidate_mismatch (s := { s with x := f }) agrees]
      exact .inr ⟨rfl, rfl⟩
  case detected =>
    rintro k v _ _ hv ⟨⟩ ⟨⟩ accepted
    have agrees : checksum f = f.b4 := (accepts f).mp accepted
    have rejected : checksum (frameSet f k v) ≠ (frameSet f k v).b4 := fun changed =>
      hv (eq_frameGet_of_checksum_frameSet agrees changed)
    exact congrArg State.rstate (tickValidate_mismatch (s := { s with x := frameSet f k v }) rejected)
  case undetected =>
    rintro _ _ ⟨⟩ ⟨⟩
    refine (accepts _).trans (Iff.trans ?_ (accepts f).symm)
    rw [checksum_compensated]

/-- Every step that answers a next state keeps the invariant (10_state.md R37). -/
theorem Inv.step {s t : State} (h : Inv s) (hs : Machine.step s = .next t) : Inv t := by
  have queued (rest : List Event) : Inv { s with agenda := rest } := h.of_view rfl
  rcases step_cases hs with ⟨_, rfl⟩ | ⟨l, rest, _, rfl⟩ | ⟨addr, n, rest, _, _, rfl⟩ | ⟨addr, n, v, rest, _, _, rfl⟩ |
    ⟨b, gap, width, rest, _, rfl⟩ | ⟨rest, _, rfl⟩
  · exact Inv.tickPhase (s := takeFreeSample s) (h.of_view rfl)
  · exact (queued rest).engineTick l
  · exact h.of_view rfl
  · exact (queued rest).writeRegister addr v
  · exact (queued rest).runSamples (symbolSamples gap width)
  · exact Inv.of_view (s := State.reset) (by constructor <;> decide) rfl

section Fields

variable (s : State)

/-- 10_state.md R23: the humidity byte of `READING`. -/
theorem readingWord_byte1 : (readingWord s).extractLsb' 8 8 = s.d.b0 :=
  (extract_append_upper _ _ (by decide)).trans ((extract_append_lower _ _ (by decide)).trans (extract_whole _))

/-- 10_state.md R23: the temperature byte of `READING`. -/
theorem readingWord_byte0 : (readingWord s).extractLsb' 0 8 = s.d.b2 :=
  (extract_append_lower _ _ (by decide)).trans (extract_whole _)

/-- 10_state.md R23: the second byte of the frame in `DATA0`. -/
theorem data0Word_byte2 : (data0Word s).extractLsb' 16 8 = s.d.b1 :=
  (extract_append_upper _ _ (by decide)).trans ((extract_append_upper _ _ (by decide)).trans
    ((extract_append_lower _ _ (by decide)).trans (extract_whole _)))

/-- 10_state.md R23: the fourth byte of the frame in `DATA0`. -/
theorem data0Word_byte0 : (data0Word s).extractLsb' 0 8 = s.d.b3 :=
  (extract_append_lower _ _ (by decide)).trans (extract_whole _)

/-- 10_state.md R21: `RVALID` stands above `BUSY`. -/
theorem statusWord_rvalidBit : (statusWord s).getLsbD 1 = s.rvalid :=
  (getLsbD_append_upper _ _ 0).trans ((Laws.RoundTrip.lower_of_append _ _ (by decide)).trans (by simp))

end Fields

/-- Settles O57: a success publishes the frame, whose bytes the registers show; a step that leaves `Failure` leaves the
invariant's no result. -/
theorem readingIsFirstAndThirdByte : Obligations.ReadingIsFirstAndThirdByte := by
  unfold Obligations.ReadingIsFirstAndThirdByte
  refine ⟨fun s _ hs => ⟨tickValidate s, rfl, ?success⟩, fun s t h hs failed => ?failure⟩
  case success =>
    rw [tickValidate_success hs.symm]
    exact ⟨readingWord_byte1 _, readingWord_byte0 _, rfl, data0Word_byte2 _, data0Word_byte0 _⟩
  case failure =>
    obtain ⟨_, invalid, noResult⟩ := (h.step hs).failure failed
    have reading : readingWord t = 0#32 := by
      rw [readingWord, noResult]
      rfl
    exact ⟨reading, (statusWord_rvalidBit t).trans invalid⟩

end Sys2Proof.Machine

end

section

/-! The RetryController (44_retry_controller.md): the two phases outside an attempt, what a failure writes, and what the
host can do to a running attempt. -/

namespace Sys2Proof.Machine

theorem tickPhase_idle {s : State} (h : s.pc = .idle) : tickPhase s = s := by simp [tickPhase, h, tickIdle]

/-- Whatever is sampled in IDLE, only the sample stands (44_retry_controller.md R120). -/
theorem runSamples_idle {s : State} (h : s.pc = .idle) (ls : List Level) :
    runSamples ls s = { s with lineIn := lastSample ls s.lineIn } := by
  induction ls generalizing s with
  | nil => rfl
  | cons l ls ih =>
    rw [runSamples_cons, engineTick_idle h, ih (s := sampleLine l s) h, lastSample_cons]
    rfl

theorem ackCommand_pc (s : State) : (ackCommand s).pc = s.pc := by unfold ackCommand; split <;> rfl

theorem commandWrite_start {v : Word} {s : State} (h : v.getLsbD 0 = true) : commandWrite v s = startCommand s := if_pos h

/-- Only START moves `pc` (45_host_interface.md R132 to R134). -/
theorem commandWrite_pc {v : Word} {s : State} (h : v.getLsbD 0 = false) : (commandWrite v s).pc = s.pc := by
  rw [commandWrite, if_neg (by rw [h]; decide)]
  split
  · exact ackCommand_pc s
  · rfl

/-- Among the writes only START leaves IDLE (44_retry_controller.md R120). -/
theorem writeRegister_leaves_idle {addr : Nat} {v : Word} {s : State} (idle : s.pc = .idle)
    (moved : (writeRegister addr v s).pc ≠ .idle) :
    addr = 0x00 ∧ v.getLsbD 0 = true ∧ (writeRegister addr v s).pc = .startA := by
  rcases writeRegister_cases addr v s with ⟨rfl, k⟩ | ⟨_, k⟩ | ⟨_, k⟩ | ⟨_, _, k⟩ | ⟨_, _, _, _, _, _, _, _, _, _, k⟩ | k <;>
    rw [k] at moved ⊢
  · cases h0 : v.getLsbD 0 with
    | true => rw [commandWrite_start h0, startCommand_idle idle]; exact ⟨rfl, rfl, rfl⟩
    | false => exact absurd ((commandWrite_pc h0).trans idle) moved
  all_goals exact absurd idle moved

/-- Among the steps only START leaves IDLE (44_retry_controller.md R120). -/
theorem step_leaves_idle {s t : State} (h : step s = .next t) (idle : s.pc = .idle) (moved : t.pc ≠ .idle) :
    t.pc = .startA ∧ ∃ v rest, s.agenda = .write 0x00 4 v :: rest ∧ v.getLsbD 0 = true := by
  rcases step_cases h with ⟨_, rfl⟩ | ⟨l, rest, _, rfl⟩ | ⟨addr, n, rest, _, _, rfl⟩ | ⟨addr, n, v, rest, ha, port, rfl⟩ |
    ⟨b, gap, width, rest, _, rfl⟩ | ⟨rest, _, rfl⟩
  · rw [tickPhase_idle (s := takeFreeSample s) idle] at moved
    exact absurd idle moved
  · rw [engineTick_idle (s := { s with agenda := rest }) idle] at moved
    exact absurd idle moved
  · exact absurd idle moved
  · obtain ⟨rfl, start, entered⟩ := writeRegister_leaves_idle (s := { s with agenda := rest }) idle moved
    obtain ⟨rfl, _, _⟩ := port
    exact ⟨entered, v, rest, ha, start⟩
  · rw [receiveSymbol, runSamples_idle (s := { s with agenda := rest }) idle] at moved
    exact absurd idle moved
  · exact absurd rfl moved

/-- Settles O11: IDLE has no rule; of all steps only an accepted START leaves it; the rest is the invariant's. -/
theorem idleChangesNothing : Obligations.IdleChangesNothing := by
  unfold Obligations.IdleChangesNothing
  refine ⟨fun _ _ => rfl, fun s ls idle => runSamples_idle idle ls, fun s t => step_leaves_idle, fun s h idle => ?stands⟩
  case stands =>
    obtain ⟨he, hb, hx, released, waiting⟩ := h.idle idle
    refine ⟨released, he, hb, hx, ?_⟩
    cases hr : s.rstate with
    | idle => exact .inl rfl
    | acquiring => exact absurd hr waiting
    | success => exact .inr (.inl rfl)
    | failure => exact .inr (.inr rfl)

theorem endBit_pc_ne_backoff (s : State) : (endBit s).pc ≠ .backoff := by unfold endBit; split <;> nofun

/-- A failure goes to BACKOFF exactly under automatic retry (44_retry_controller.md R118). -/
theorem fail_pc_backoff_iff {r : Reason} {s : State} : (fail r s).pc = .backoff ↔ s.autoRetry = true := by
  rw [fail_pc]
  split
  next retry => exact iff_of_true rfl retry
  next noRetry => exact iff_of_false nofun noRetry

/-- A tick enters BACKOFF only by `Fail(r)` (44_retry_controller.md R119). -/
theorem TickOutcome.enters_backoff {s t : State} (h : TickOutcome s t) (other : s.pc ≠ .backoff)
    (entered : t.pc = .backoff) : ∃ r u, r ≠ .none ∧ t = fail r u := by
  cases h with
  | idles | counts => exact absurd entered other
  | drivesOpposite | releases | settles | retries | ackASeen | ackBSeen | ackCSeen | bitRises | bitMeasured | validates =>
    cases entered
  | bitEnds => exact absurd entered (endBit_pc_ne_backoff s)
  | timesOut r _ hr => exact ⟨r, s, hr, rfl⟩
  | mismatches => exact ⟨.checksumMismatch, recordChecksums s, by decide, rfl⟩

/-- Settles O15: BACKOFF is a HOLD that ends with `begin_attempt`; a tick that enters it is a `Fail(r)`. -/
theorem backoffRetriesAfterDelay : Obligations.BackoffRetriesAfterDelay := by
  unfold Obligations.BackoffRetriesAfterDelay
  refine ⟨HoldPhase.of_tickPhase rfl tickPhase_backoff fun _ _ _ => rfl, fun s l other entered => ?entry⟩
  case entry =>
    obtain ⟨r, u, hr, failed⟩ := (tickPhase_outcome (sampleLine l s)).enters_backoff other entered
    rw [show engineTick l s = fail r u from failed] at entered ⊢
    exact ⟨fail_pc_backoff_iff.mp entered, rfl, hr, rfl, rfl⟩

/-- 10_state.md R21: the reason's code stands above the phase, `RSTATE`, `RVALID` and `BUSY`. -/
theorem statusWord_reasonField (s : State) : (statusWord s).extractLsb' 8 3 = reasonCode s.reason := by
  refine (extract_append_upper _ _ (by decide)).trans ?_
  refine (extract_append_upper _ _ (by decide)).trans ?_
  refine (extract_append_upper _ _ (by decide)).trans ?_
  refine (extract_append_upper _ _ (by decide)).trans ?_
  refine (extract_append_lower _ _ (by decide)).trans ?_
  exact extract_whole _

/-- A sample off the target past the budget makes the operation of a wait phase `Fail(r)` (40_levelwaiter.md R80). -/
theorem exec_wait_timeout {i : Instr} {p : Phase} {target : Level} {budget : State → Ticks} {r : Reason}
    {f : Word → State → State} (isInstr : decodePhase (phaseCode p) = i)
    (isWait : ∀ s, s.pc = p → tickPhase s = waitPhase target (budget s) r f s) {s : State} (hp : s.pc = p)
    (off : s.lineIn = target.opposite) (late : (budget s).toNat < s.elapsed.toNat) : exec i s = .next (fail r s) := by
  have missed : s.lineIn ≠ target := by rw [off]; cases target <;> decide
  rw [← isInstr, exec_phaseCode_of hp, isWait s hp, waitPhase_timeout missed late]

/-- Settles O28: past its budget each wait phase is `Fail(r)` with its own reason, a mismatch is `Fail` on the state with
the pair recorded, and `STATUS` shows the reason's code. -/
theorem failureEntryWritesExactly : Obligations.FailureEntryWritesExactly := by
  unfold Obligations.FailureEntryWritesExactly
  intro s
  refine ⟨fun unset => ?noReason, fun i p budget off r code row hp hl late => ?timeout, fun _ differs => ?mismatch⟩
  case noReason => rw [statusWord_reasonField, unset]; rfl
  case timeout =>
    suffices failed : exec i s = .next (fail r s) ∧ reasonCode r = code from
      ⟨fail r s, failed.1, (statusWord_reasonField _).trans failed.2, rfl⟩
    simp only [List.mem_cons, Prod.mk.injEq, List.not_mem_nil, or_false] at row
    rcases row with ⟨rfl, rfl, rfl, rfl, rfl, rfl⟩ | ⟨rfl, rfl, rfl, rfl, rfl, rfl⟩ | ⟨rfl, rfl, rfl, rfl, rfl, rfl⟩ |
      ⟨rfl, rfl, rfl, rfl, rfl, rfl⟩ | ⟨rfl, rfl, rfl, rfl, rfl, rfl⟩ | ⟨rfl, rfl, rfl, rfl, rfl, rfl⟩
    · exact ⟨exec_wait_timeout rfl tickPhase_ackA hp hl late, rfl⟩
    · exact ⟨exec_wait_timeout rfl tickPhase_ackB hp hl late, rfl⟩
    · exact ⟨exec_wait_timeout rfl tickPhase_ackC hp hl late, rfl⟩
    · exact ⟨exec_wait_timeout rfl tickPhase_bitStart hp hl late, rfl⟩
    · exact ⟨exec_wait_timeout rfl tickPhase_bitMeasure hp hl late, rfl⟩
    · exact ⟨exec_wait_timeout rfl tickPhase_bitEnd hp hl late, rfl⟩
  case mismatch =>
    exact ⟨fail .checksumMismatch (recordChecksums s), congrArg Host.Outcome.next (tickValidate_mismatch differs),
      statusWord_reasonField _, rfl⟩

/-- Out of IDLE every command is ignored (45_host_interface.md R132 to R134). -/
theorem commandWrite_busy (v : Word) {s : State} (busy : s.pc ≠ .idle) : commandWrite v s = s := by
  have start : startCommand s = s := if_neg busy
  have ack : ackCommand s = s := if_neg fun h => busy h.1
  rw [commandWrite, start, ack, ite_self, ite_self]

/-- Out of IDLE a write reaches at most the flags and the enables (44_retry_controller.md R123). -/
theorem writeRegister_busy_attemptView (addr : Nat) (v : Word) {s : State} (busy : s.pc ≠ .idle) :
    (writeRegister addr v s).attemptView = s.attemptView := by
  rcases writeRegister_cases addr v s with ⟨_, k⟩ | ⟨_, k⟩ | ⟨_, k⟩ | ⟨_, idle, _⟩ | ⟨idle, _⟩ | k
  · rw [k, commandWrite_busy v busy]
  · rw [k]; rfl
  · rw [k]; rfl
  · exact absurd idle busy
  · exact absurd idle busy
  · rw [k]

section BusyStep

variable {s t : State} {e : Event} {rest : List Event}

/-- No host access changes what a running attempt or backoff reads or leaves (44_retry_controller.md R123). -/
theorem step_hostAccess_attemptView (ha : s.agenda = e :: rest) (host : hostAccess e) (h : step s = .next t)
    (busy : s.pc ≠ .idle) : t.attemptView = s.attemptView := by
  cases e with
  | read addr n =>
    rw [step_read ha host] at h
    cases h
    rfl
  | write addr n v =>
    rw [step_write ha host] at h
    cases h
    exact writeRegister_busy_attemptView addr v (s := { s with agenda := rest }) busy
  | tick | symbol | reset => exact host.elim

/-- An access that is not refused is one the port can carry (20_memory.md R42). -/
theorem accepted_of_step (ha : s.agenda = e :: rest) (h : step s = .next t) : acceptedEvent e := by
  rcases step_cases h with ⟨ha', _⟩ | ⟨_, _, ha', _⟩ | ⟨_, _, _, ha', port, _⟩ | ⟨_, _, _, _, ha', port, _⟩ |
    ⟨_, _, _, _, ha', _⟩ | ⟨_, ha', _⟩ <;>
    cases ha.symm.trans ha'
  · trivial
  · exact port
  · exact port
  · trivial
  · trivial

/-- Only a tick, a symbol or a reset moves `pc` out of a busy phase (44_retry_controller.md R123). -/
theorem step_moves_busy (ha : s.agenda = e :: rest) (h : step s = .next t) (busy : s.pc ≠ .idle)
    (moved : t.pc ≠ s.pc) : e = .reset ∨ (∃ l, e = .tick l) ∨ ∃ b gap width, e = .symbol b gap width := by
  have accepted := accepted_of_step ha h
  have noHost : ¬ hostAccess e := fun host =>
    have samePc : t.attemptView.pc = s.attemptView.pc :=
      congrArg State.pc (step_hostAccess_attemptView ha host h busy)
    moved samePc
  cases e with
  | read | write => exact absurd accepted noHost
  | tick l => exact .inr (.inl ⟨l, rfl⟩)
  | symbol b gap width => exact .inr (.inr ⟨b, gap, width, rfl⟩)
  | reset => exact .inl rfl

end BusyStep

/-- Settles O48: while busy a read answers, a command is ignored and any other write reaches at most the flags and the
enables; so what moves `pc` is no host access. -/
theorem hostCannotCancelAttempt : Obligations.HostCannotCancelAttempt := by
  unfold Obligations.HostCannotCancelAttempt
  refine ⟨fun s t e rest => step_hostAccess_attemptView, fun s rest v ha busy => ?command,
    fun s t e rest => step_moves_busy⟩
  case command =>
    have write : writeRegister 0x00 v { s with agenda := rest } = commandWrite v { s with agenda := rest } := rfl
    rw [step_write ha (by decide), write, commandWrite_busy (s := { s with agenda := rest }) v busy]

end Sys2Proof.Machine

end

section

/-! The layouts of the registers (10_state.md R19 to R27), seam by seam: the fields a read shows the host, and the
reserved bits that read 0. -/

namespace Sys2Proof.Machine

section StatusFields

variable (s : State)

theorem ofBool_busy : BitVec.ofBool (busy s) = if s.pc = .idle then 0#1 else 1#1 := by
  by_cases idle : s.pc = .idle <;> simp [busy, idle]

/-- 10_state.md R21: `BUSY` is the lowest bit. -/
theorem statusWord_busyField : (statusWord s).extractLsb' 0 1 = BitVec.ofBool (busy s) := by
  simp (disch := decide) only [statusWord, extract_append_lower, extract_whole]

/-- 10_state.md R21: `RVALID` stands above `BUSY`. -/
theorem statusWord_rvalidField : (statusWord s).extractLsb' 1 1 = BitVec.ofBool s.rvalid := by
  simp (disch := decide) only [statusWord, extract_append_lower, extract_append_upper, extract_whole, Nat.reduceSub]

/-- 10_state.md R21: a reserved bit stands between the reason and `bit_idx`. -/
theorem statusWord_bit11 : (statusWord s).extractLsb' 11 1 = 0#1 := by
  simp (disch := decide) only [statusWord, extract_append_lower, extract_append_upper, extract_whole, Nat.reduceSub]

/-- 10_state.md R21: six bits show `bit_idx`, which is below 40. -/
theorem statusWord_bitIdxField : ((statusWord s).extractLsb' 12 6).toNat = s.bitIdx.val := by
  have small : s.bitIdx.val < 2 ^ 6 := s.bitIdx.isLt.trans (by decide)
  simp (disch := decide) only [statusWord, extract_append_lower, extract_append_upper, extract_whole, Nat.reduceSub]
  rw [BitVec.toNat_ofNat, Nat.mod_eq_of_lt small]

/-- 10_state.md R21: a reserved bit stands between `bit_idx` and the line's two bits. -/
theorem statusWord_bit18 : (statusWord s).extractLsb' 18 1 = 0#1 := by
  simp (disch := decide) only [statusWord, extract_append_lower, extract_append_upper, extract_whole, Nat.reduceSub]

/-- 10_state.md R21: whether the line is driven. -/
theorem statusWord_lineOeField : (statusWord s).extractLsb' 19 1 = BitVec.ofBool s.lineOe := by
  simp (disch := decide) only [statusWord, extract_append_lower, extract_append_upper, extract_whole, Nat.reduceSub]

/-- 10_state.md R21: the level the line is driven at is the highest field. -/
theorem statusWord_lineOutField : (statusWord s).extractLsb' 20 1 = levelBit s.lineOut := by
  simp (disch := decide) only [statusWord, extract_append_lower, extract_append_upper, extract_whole, Nat.reduceSub]

/-- 10_state.md R21: the bits above the fields are reserved. -/
theorem statusWord_top : (statusWord s).extractLsb' 21 11 = 0#11 := by
  simp (disch := decide) only [statusWord, extract_append_upper, extract_whole, Nat.reduceSub]

end StatusFields

section OtherFields

variable (s : State)

/-- 10_state.md R26: `AUTO_RETRY` is the lowest bit of `CFG`. -/
theorem cfgWord_autoRetryField : (cfgWord s).extractLsb' 0 1 = BitVec.ofBool s.autoRetry := by
  simp (disch := decide) only [cfgWord, extract_append_lower, extract_whole]

/-- 10_state.md R26: `START_LEVEL` stands above `AUTO_RETRY`. -/
theorem cfgWord_startLevelField : (cfgWord s).extractLsb' 1 1 = levelBit s.startLevel := by
  simp (disch := decide) only [cfgWord, extract_append_lower, extract_append_upper, extract_whole, Nat.reduceSub]

/-- 10_state.md R26: the rest of `CFG` is reserved. -/
theorem cfgWord_top : (cfgWord s).extractLsb' 2 30 = 0#30 := by
  simp (disch := decide) only [cfgWord, extract_append_upper, extract_whole, Nat.reduceSub]

/-- 10_state.md R23: the first byte of the frame is the highest of `DATA0`. -/
theorem data0Word_byte3 : (data0Word s).extractLsb' 24 8 = s.d.b0 := by
  simp (disch := decide) only [data0Word, extract_append_upper, extract_whole, Nat.reduceSub]

/-- 10_state.md R23: the third byte of the frame in `DATA0`. -/
theorem data0Word_byte1 : (data0Word s).extractLsb' 8 8 = s.d.b2 := by
  simp (disch := decide) only [data0Word, extract_append_lower, extract_append_upper, extract_whole, Nat.reduceSub]

/-- 10_state.md R23: `DATA1` is twenty-four reserved bits and the fifth byte. -/
theorem data1Word_eq_append : data1Word s = 0#24 ++ s.d.b4 := BitVec.setWidth_eq_append (by decide)

/-- 10_state.md R23: the fifth byte of the frame is the low byte of `DATA1`. -/
theorem data1Word_byte0 : (data1Word s).extractLsb' 0 8 = s.d.b4 := by
  simp (disch := decide) only [data1Word_eq_append, extract_append_lower, extract_whole]

/-- 10_state.md R23: the rest of `DATA1` is reserved. -/
theorem data1Word_top : (data1Word s).extractLsb' 8 24 = 0#24 := by
  simp (disch := decide) only [data1Word_eq_append, extract_append_upper, extract_whole, Nat.sub_self]

/-- 10_state.md R23: the upper half of `READING` is reserved. -/
theorem readingWord_top : (readingWord s).extractLsb' 16 16 = 0#16 := by
  simp (disch := decide) only [readingWord, extract_append_upper, extract_whole, Nat.reduceSub]

/-- 10_state.md R23: the computed checksum in `CHK`. -/
theorem chkWord_byte1 : (chkWord s).extractLsb' 8 8 = s.chkCalc := by
  simp (disch := decide) only [chkWord, extract_append_lower, extract_append_upper, extract_whole, Nat.sub_self]

/-- 10_state.md R23: the received checksum in `CHK`. -/
theorem chkWord_byte0 : (chkWord s).extractLsb' 0 8 = s.chkRecv := by
  simp (disch := decide) only [chkWord, extract_append_lower, extract_whole]

/-- 10_state.md R23: the upper half of `CHK` is reserved. -/
theorem chkWord_top : (chkWord s).extractLsb' 16 16 = 0#16 := by
  simp (disch := decide) only [chkWord, extract_append_upper, extract_whole, Nat.reduceSub]

end OtherFields

section ReservedBits

/-- A word and a mask with a seam at the same place are disjoint when they are disjoint on both sides of it. -/
theorem append_and_append_eq_zero {n m : Nat} {a c : BitVec n} {b d : BitVec m} (upper : a &&& c = 0#n)
    (lower : b &&& d = 0#m) : (a ++ b) &&& (c ++ d) = 0#(n + m) := by
  rw [BitVec.and_append, upper, lower, BitVec.zero_append_zero]

/-- Under a mask above the field, a zero-extended field is 0. -/
theorem zero_append_and_mask {n m : Nat} (field : BitVec m) :
    (0#n ++ field) &&& (BitVec.allOnes n ++ 0#m) = 0#(n + m) :=
  append_and_append_eq_zero BitVec.zero_and BitVec.and_zero

variable (s : State)

/-- 10_state.md R21: at each field of `STATUS` the mask is 0, at each reserved bit the word is. -/
theorem statusWord_and_reserved : statusWord s &&& 0xFFE40800#32 = 0#32 := by
  show statusWord s &&&
    (BitVec.allOnes 11 ++ 0#1 ++ 0#1 ++ 1#1 ++ 0#6 ++ 1#1 ++ 0#3 ++ 0#4 ++ 0#2 ++ 0#1 ++ 0#1) = 0#32
  unfold statusWord
  repeat' apply append_and_append_eq_zero
  all_goals simp only [BitVec.zero_and, BitVec.and_zero]

/-- `IFLAG`, `IEN` and `CFG` hold two one-bit fields (10_state.md R19, R20, R26). -/
theorem twoBits_and_reserved (a b : BitVec 1) : (0#30 ++ a ++ b) &&& 0xFFFFFFFC#32 = 0#32 := by
  rw [BitVec.append_assoc]
  exact zero_append_and_mask _

/-- `READING` and `CHK` hold two bytes (10_state.md R23). -/
theorem twoBytes_and_reserved (a b : Byte) : (0#16 ++ a ++ b) &&& 0xFFFF0000#32 = 0#32 := by
  rw [BitVec.append_assoc]
  exact zero_append_and_mask _

theorem ticksWord_and_reserved (t : Ticks) : ticksWord t &&& 0xFF000000#32 = 0#32 := by
  rw [ticksWord, BitVec.setWidth_eq_append (by decide)]
  exact zero_append_and_mask t

theorem data1Word_and_reserved : data1Word s &&& 0xFFFFFF00#32 = 0#32 := by
  rw [data1Word_eq_append]
  exact zero_append_and_mask s.d.b4

/-- 45_host_interface.md R130: whatever the offset, the reserved bits of the word read are 0. -/
theorem readRegister_and_reserved (addr : Nat) : readRegister addr s &&& reservedBits addr = 0#32 := by
  unfold readRegister
  split
  · exact statusWord_and_reserved s
  · exact twoBits_and_reserved _ _
  · exact twoBits_and_reserved _ _
  · exact twoBits_and_reserved _ _
  · exact ticksWord_and_reserved s.thresh
  · exact ticksWord_and_reserved s.tStartA
  · exact ticksWord_and_reserved s.tStartB
  · exact ticksWord_and_reserved s.tSettle
  · exact ticksWord_and_reserved s.tAck
  · exact ticksWord_and_reserved s.tBitStart
  · exact ticksWord_and_reserved s.tMeasure
  · exact ticksWord_and_reserved s.tBitEnd
  · exact ticksWord_and_reserved s.tBackoff
  · exact BitVec.and_zero
  · exact data1Word_and_reserved s
  · exact twoBytes_and_reserved _ _
  · exact twoBytes_and_reserved _ _
  · exact BitVec.and_zero
  · exact BitVec.zero_and

end ReservedBits

/-- Settles O40: a read step is the register map's word handed to the host; its reserved bits are 0 by each layout. -/
theorem readStepReturnsRegister : Obligations.ReadStepReturnsRegister := by
  unfold Obligations.ReadStepReturnsRegister
  exact ⟨fun s rest addr h aligned inside => step_read h ⟨rfl, aligned, inside⟩,
    fun s addr => readRegister_and_reserved s addr⟩

/-- Settles O33: a read hands over `statusWord`, its fields read off seam by seam; the exclusion is the invariant's. -/
theorem statusShowsFields : Obligations.StatusShowsFields := by
  unfold Obligations.StatusShowsFields
  intro s
  refine ⟨⟨answerRead (statusWord s) s, rfl, rfl, ?fields⟩, fun v => rfl, statusWord_reset, ?exclusive⟩
  case fields =>
    exact ⟨(statusWord_busyField s).trans (ofBool_busy s), statusWord_rvalidField s, statusWord_rstateField s,
      statusWord_phaseField s, statusWord_reasonField s, statusWord_bit11 s, statusWord_bitIdxField s,
      statusWord_bit18 s, statusWord_lineOeField s, (statusWord_lineOutField s).trans (levelBit_eq s.lineOut),
      statusWord_top s⟩
  case exclusive =>
    rintro h ⟨valid, failed⟩
    obtain ⟨_, noReason, _⟩ := h.valid valid
    exact failed noReason

end Sys2Proof.Machine

end

section

/-! The host's registers (45_host_interface.md R136 to R149): the flags, the enables, the configuration, the result
views. -/

namespace Sys2Proof.Machine

/-- The enables of `IEN` at `okIe` and `failIe` (10_state.md R20). -/
def State.withEnables (okIe failIe : Bool) (s : State) : State := { s with okIe := okIe, failIe := failIe }

theorem storeIen_eq_withEnables (v : Word) (s : State) :
    storeIen v s = s.withEnables (v.getLsbD 0) (v.getLsbD 1) := rfl

section Enables

variable {target : Level} {t : Ticks} {r : Reason} {f : Word → State → State} {g : State → State} {a b : Bool}
  {s : State}

/-- A wait reads no enable and writes none, if its own effect does neither. -/
theorem waitPhase_withEnables (effect : ∀ e u, f e (u.withEnables a b) = (f e u).withEnables a b) :
    waitPhase target t r f (s.withEnables a b) = (waitPhase target t r f s).withEnables a b := by
  rcases waitPhase_cases (target := target) (t := t) (r := r) (f := f) (s := s) with
    ⟨seen, k⟩ | ⟨off, late, k⟩ | ⟨off, inTime, k⟩ <;> rw [k]
  · exact (waitPhase_done (s := s.withEnables a b) seen).trans (effect s.elapsed s)
  · exact waitPhase_timeout (s := s.withEnables a b) off late
  · exact waitPhase_continue (s := s.withEnables a b) off inTime

/-- A hold reads no enable and writes none, if its own effect does neither. -/
theorem holdPhase_withEnables (effect : ∀ u, g (u.withEnables a b) = (g u).withEnables a b) :
    holdPhase t g (s.withEnables a b) = (holdPhase t g s).withEnables a b := by
  rcases holdPhase_cases (t := t) (g := g) (s := s) with ⟨up, k⟩ | ⟨early, k⟩ <;> rw [k]
  · exact (holdPhase_expired (s := s.withEnables a b) up).trans (effect { s with elapsed := 0#32 })
  · exact holdPhase_continue (s := s.withEnables a b) early

theorem endBit_withEnables : endBit (s.withEnables a b) = (endBit s).withEnables a b := by
  by_cases last : s.bitIdx = 39 <;> simp only [endBit, State.withEnables, last, if_true, if_false]

theorem tickValidate_withEnables : tickValidate (s.withEnables a b) = (tickValidate s).withEnables a b := by
  by_cases agrees : checksum s.x = s.x.b4
  · rw [tickValidate_success agrees, tickValidate_success (s := s.withEnables a b) agrees]
    rfl
  · rw [tickValidate_mismatch agrees, tickValidate_mismatch (s := s.withEnables a b) agrees]
    rfl

theorem tickPhase_validate (s : State) (h : s.pc = .validate) : tickPhase s = tickValidate s := by simp [tickPhase, h]

/-- 45_host_interface.md R137: a tick does with any enables what it does without, and leaves them. -/
theorem tickPhase_withEnables : tickPhase (s.withEnables a b) = (tickPhase s).withEnables a b :=
  tickPhase_elim (P := fun u => tickPhase (s.withEnables a b) = u.withEnables a b)
    (idle := fun hp => tickPhase_idle (s := s.withEnables a b) hp)
    (startA := fun hp => (tickPhase_startA (s.withEnables a b) hp).trans (holdPhase_withEnables fun _ => rfl))
    (startB := fun hp => (tickPhase_startB (s.withEnables a b) hp).trans (holdPhase_withEnables fun _ => rfl))
    (settle := fun hp => (tickPhase_settle (s.withEnables a b) hp).trans (holdPhase_withEnables fun _ => rfl))
    (ackA := fun hp => (tickPhase_ackA (s.withEnables a b) hp).trans (waitPhase_withEnables fun _ _ => rfl))
    (ackB := fun hp => (tickPhase_ackB (s.withEnables a b) hp).trans (waitPhase_withEnables fun _ _ => rfl))
    (ackC := fun hp => (tickPhase_ackC (s.withEnables a b) hp).trans (waitPhase_withEnables fun _ _ => rfl))
    (bitStart := fun hp => (tickPhase_bitStart (s.withEnables a b) hp).trans (waitPhase_withEnables fun _ _ => rfl))
    (bitMeasure := fun hp => (tickPhase_bitMeasure (s.withEnables a b) hp).trans (waitPhase_withEnables fun _ _ => rfl))
    (bitEnd := fun hp => (tickPhase_bitEnd (s.withEnables a b) hp).trans
      (waitPhase_withEnables fun _ _ => endBit_withEnables))
    (validate := fun hp => (tickPhase_validate (s.withEnables a b) hp).trans tickValidate_withEnables)
    (backoff := fun hp => (tickPhase_backoff (s.withEnables a b) hp).trans (holdPhase_withEnables fun _ => rfl))

/-- 60_exceptions.md R165. -/
theorem irq_withEnables :
    irq (s.withEnables a b) = true ↔ (s.okIf = true ∧ a = true) ∨ (s.failIf = true ∧ b = true) := by
  simp only [irq, State.withEnables, Bool.or_eq_true, Bool.and_eq_true]

/-- No register but `IEN` shows the enables. -/
theorem readRegister_withEnables {addr : Nat} (other : addr ≠ 0x0C) :
    readRegister addr (s.withEnables a b) = readRegister addr s := by
  unfold readRegister
  split
  any_goals rfl
  exact absurd rfl other

end Enables

/-- Settles O35: the accesses are the model's; the enables enter `irq` alone, since no wait, hold or validation and no
other register reads them. -/
theorem ienGatesOnlyTheInterrupt : Obligations.IenGatesOnlyTheInterrupt := by
  unfold Obligations.IenGatesOnlyTheInterrupt
  intro s
  refine ⟨rfl, fun v => congrArg Host.Outcome.next (storeIen_eq_withEnables v s), fun a b => ?gated⟩
  exact ⟨irq_withEnables, fun l => tickPhase_withEnables (s := sampleLine l s),
    fun addr other => readRegister_withEnables other⟩

/-- 44_retry_controller.md R119: in BACKOFF the checksum pair stands until the next attempt. -/
theorem tickPhase_backoff_chkWord {s : State} (hp : s.pc = .backoff) (stays : (tickPhase s).pc = .backoff) :
    chkWord (tickPhase s) = chkWord s := by
  rw [tickPhase_backoff s hp, tickBackoff] at stays ⊢
  rcases holdPhase_cases (t := s.tBackoff) (g := beginAttempt) (s := s) with ⟨_, k⟩ | ⟨_, k⟩ <;> rw [k] at stays ⊢
  · cases stays
  · rfl

/-- Settles O38: the layouts seam by seam; no result stands in an attempt by the invariant; a mismatch keeps the pair
that the validation recorded, and a tick that stays in BACKOFF only counts. -/
theorem resultRegistersAreViews : Obligations.ResultRegistersAreViews := by
  unfold Obligations.ResultRegistersAreViews
  refine ⟨fun s => ⟨?data0, ?data1, ?reading, ?chk, rfl, fun v i view => ?ignored⟩, fun s addr h acquiring => ?attempt,
    fun s _ retry differs => ?mismatch, fun s l hp stays => tickPhase_backoff_chkWord (s := sampleLine l s) hp stays⟩
  case data0 =>
    exact ⟨answerRead (data0Word s) s, rfl, rfl, data0Word_byte3 s, data0Word_byte2 s, data0Word_byte1 s,
      data0Word_byte0 s⟩
  case data1 => exact ⟨answerRead (data1Word s) s, rfl, rfl, data1Word_byte0 s, data1Word_top s⟩
  case reading =>
    exact ⟨answerRead (readingWord s) s, rfl, rfl, readingWord_byte1 s, readingWord_byte0 s, readingWord_top s⟩
  case chk => exact ⟨answerRead (chkWord s) s, rfl, rfl, chkWord_byte1 s, chkWord_byte0 s, chkWord_top s⟩
  case ignored =>
    simp only [List.mem_cons, List.not_mem_nil, or_false] at view
    rcases view with rfl | rfl | rfl | rfl | rfl <;> rfl
  case attempt =>
    obtain ⟨hd, _, _, hc, hr, _⟩ := h.inAttempt (h.acquiring.mp acquiring)
    exact readRegister_result_zero hd hc hr addr
  case mismatch =>
    refine ⟨tickValidate s, rfl, ?_⟩
    rw [tickValidate_mismatch differs]
    exact ⟨fail_pc_backoff_iff.mpr retry, rfl⟩

section GatedStore

variable {view : State → Word} {store : Word → State → State} {v : Word} {s : State}

/-- A write to a configuration register while `pc = IDLE` is its store (20_memory.md R47). -/
theorem gatedStore_idle (idle : s.pc = .idle) :
    Host.Outcome.next (φ := Fault) (ρ := Refusal) (accessRegister view (storeWhenIdle store) (.write v) s) =
      .next (store v s) :=
  congrArg Host.Outcome.next (storeWhenIdle_idle idle)

/-- A write to a configuration register while busy is ignored in full (20_memory.md R47). -/
theorem gatedStore_busy (busy : s.pc ≠ .idle) :
    Host.Outcome.next (φ := Fault) (ρ := Refusal) (accessRegister view (storeWhenIdle store) (.write v) s) = .next s :=
  congrArg Host.Outcome.next (storeWhenIdle_busy busy)

end GatedStore

/-- Settles O37: a read hands over the field; a write is the gated store of bits 23:0. -/
theorem timeRegistersStoreWhileIdle : Obligations.TimeRegistersStoreWhileIdle := by
  unfold Obligations.TimeRegistersStoreWhileIdle
  refine fun s => ⟨⟨rfl, rfl, rfl, rfl, rfl, rfl, rfl, rfl, rfl⟩,
    fun v idle => ?stored, fun v i register busy => ?locked⟩
  case stored =>
    have field : v.extractLsb' 0 24 = wordTicks v := (BitVec.setWidth_eq_extractLsb' (by decide)).symm
    rw [field]
    exact ⟨gatedStore_idle idle, gatedStore_idle idle, gatedStore_idle idle, gatedStore_idle idle, gatedStore_idle idle,
      gatedStore_idle idle, gatedStore_idle idle, gatedStore_idle idle, gatedStore_idle idle⟩
  case locked =>
    simp only [List.mem_cons, List.not_mem_nil, or_false] at register
    rcases register with rfl | rfl | rfl | rfl | rfl | rfl | rfl | rfl | rfl <;>
      exact gatedStore_busy busy

/-- Settles O36: `CFG` by its layout, and the gated store of its two fields. -/
theorem cfgStoresWhileIdle : Obligations.CfgStoresWhileIdle := by
  unfold Obligations.CfgStoresWhileIdle
  intro s
  exact ⟨⟨answerRead (cfgWord s) s, rfl, rfl, cfgWord_autoRetryField s,
    (cfgWord_startLevelField s).trans (levelBit_eq s.startLevel), cfgWord_top s⟩,
    fun v => gatedStore_idle, fun v => gatedStore_busy⟩

/-- Settles O39: every reserved slot is the one access that answers 0 and ignores the word written. -/
theorem reservedOffsetsReadZero : Obligations.ReservedOffsetsReadZero := by
  unfold Obligations.ReservedOffsetsReadZero
  exact fun s v => ⟨⟨rfl, rfl⟩, fun slot => ⟨rfl, rfl⟩, fun slot => ⟨rfl, rfl⟩, fun slot => ⟨rfl, rfl⟩⟩

/-- No command writes a flag (45_host_interface.md R132 to R134). -/
theorem commandWrite_flags (v : Word) (s : State) :
    (commandWrite v s).okIf = s.okIf ∧ (commandWrite v s).failIf = s.failIf := by
  unfold commandWrite startCommand ackCommand
  repeat' split
  all_goals exact ⟨rfl, rfl⟩

/-- 45_host_interface.md R136: the flags are set only by the engine. -/
theorem writeRegister_sets_no_flag (addr : Nat) (v : Word) (s : State) :
    ((writeRegister addr v s).okIf = true → s.okIf = true) ∧
      ((writeRegister addr v s).failIf = true → s.failIf = true) := by
  rcases writeRegister_cases addr v s with ⟨_, k⟩ | ⟨_, k⟩ | ⟨_, k⟩ | ⟨_, _, k⟩ |
    ⟨_, _, _, _, _, _, _, _, _, _, k⟩ | k <;>
    rw [k]
  · obtain ⟨ok, failed⟩ := commandWrite_flags v s
    exact ⟨ok.symm.trans, failed.symm.trans⟩
  · exact ⟨Bool.and_elim_left, Bool.and_elim_left⟩
  all_goals exact ⟨id, id⟩

theorem and_not_eq_ite (flag written : Bool) : (flag && !written) = if written = true then false else flag := by
  cases written <;> simp

/-- Settles O34: the clear keeps a flag unless its bit is written 1, and no other write reaches a flag. -/
theorem iflagClearsWrittenOnes : Obligations.IflagClearsWrittenOnes := by
  unfold Obligations.IflagClearsWrittenOnes
  refine fun s => ⟨rfl, fun v => ?cleared, fun addr v => writeRegister_sets_no_flag addr v s⟩
  rw [← and_not_eq_ite, ← and_not_eq_ite]
  rfl

end Sys2Proof.Machine

end

section

/-! The host's commands (45_host_interface.md R132 to R134), and what a write step does by offset (R131). -/

namespace Sys2Proof.Machine

/-- Settles O30: START is `begin_attempt()` gated by IDLE; the expiry of BACKOFF is the same action, which reads neither
`pc` nor `elapsed`. -/
theorem startBeginsAttemptWhenIdle : Obligations.StartBeginsAttemptWhenIdle := by
  unfold Obligations.StartBeginsAttemptWhenIdle
  refine fun rest s => ⟨fun idle => congrArg Host.Outcome.next (startCommand_idle idle),
    fun busy => congrArg Host.Outcome.next (if_neg busy), fun _ bound up => ?retry⟩
  have begins : tickBackoff s = beginAttempt { s with elapsed := 0#32 } := by
    rw [tickBackoff, holdPhase_eq_ite bound, if_pos up]
  exact congrArg Host.Outcome.next (begins.trans (startCommand_idle (s := { s with pc := .idle }) rfl).symm)

/-- Settles O31: ACK writes `rstate` under its own condition and nothing otherwise. -/
theorem ackReturnsToIdleState : Obligations.AckReturnsToIdleState := by
  unfold Obligations.AckReturnsToIdleState
  exact fun rest s => ⟨fun idle finished => congrArg Host.Outcome.next (if_pos ⟨idle, finished⟩),
    fun ignored => congrArg Host.Outcome.next (if_neg ignored)⟩

/-- Settles O32: bit 0 is looked at first, so both bits set is START. -/
theorem nopAndCommandReadChangeNothing : Obligations.NopAndCommandReadChangeNothing := by
  unfold Obligations.NopAndCommandReadChangeNothing
  exact fun s => ⟨fun rest => rfl, rfl, fun v bit0 _ => ⟨_, decode_write_cmd.trans (congrArg _ (decodeCmd_start bit0))⟩⟩

/-- A configuration write changes no register but its own (20_memory.md R47). -/
theorem readRegister_writeRegister_other {addr other : Nat} (v : Word) {s : State} (aligned : addr % 4 = 0)
    (hl : 0x10 ≤ addr) (hu : addr ≤ 0x34) (idle : s.pc = .idle) (ne : other ≠ addr) :
    readRegister other (writeRegister addr v s) = readRegister other s := by
  have offsets : addr = 0x10 ∨ addr = 0x14 ∨ addr = 0x18 ∨ addr = 0x1C ∨ addr = 0x20 ∨ addr = 0x24 ∨ addr = 0x28 ∨
      addr = 0x2C ∨ addr = 0x30 ∨ addr = 0x34 := by omega
  rcases offsets with rfl | rfl | rfl | rfl | rfl | rfl | rfl | rfl | rfl | rfl <;>
  · rw [writeRegister, storeWhenIdle_idle idle]
    unfold readRegister
    split
    any_goals rfl
    exact absurd rfl ne

/-- A write at a configuration offset writes nothing of the block outside the configuration (10_state.md section 8). -/
theorem writeRegister_withoutConfig {addr : Nat} (v : Word) (s : State) (hl : 0x10 ≤ addr) :
    (writeRegister addr v s).withoutConfig = s.withoutConfig := by
  rcases writeRegister_cases addr v s with ⟨h, _⟩ | ⟨h, _⟩ | ⟨h, _⟩ | ⟨_, _, k⟩ | ⟨_, _, _, _, _, _, _, _, _, _, k⟩ | k
  · omega
  · omega
  · omega
  all_goals exact (congrArg State.withoutConfig k).trans rfl

/-- `STATUS`, the result views and the reserved offsets ignore a write (45_host_interface.md R135, R148, R149). -/
theorem writeRegister_readOnly {addr : Nat} (v : Word) (s : State) (readOnly : addr = 0x04 ∨ 0x38 ≤ addr) :
    writeRegister addr v s = s := by
  unfold writeRegister
  split
  any_goals rfl
  all_goals omega

/-- Settles O41: a write step is `writeRegister`; its offsets are the commands, the two plain updates, the gated stores
and those that ignore it. -/
theorem writeStepEffectByOffset : Obligations.WriteStepEffectByOffset := by
  unfold Obligations.WriteStepEffectByOffset
  intro s rest addr v h aligned inside
  refine ⟨_, step_write h ⟨rfl, aligned, inside⟩, rfl, ?command, ?iflag, ?ien, fun hl hu idle => ?stored,
    fun hl _ busy => writeRegister_config_busy (s := { s with agenda := rest }) v hl busy,
    writeRegister_readOnly v { s with agenda := rest }⟩
  case command =>
    rintro rfl i decoded
    cases decoded
    exact exec_decodeCmd v { s with agenda := rest }
  case iflag =>
    rintro rfl
    rfl
  case ien =>
    rintro rfl
    rfl
  case stored =>
    refine ⟨writeRegister_withoutConfig v { s with agenda := rest } hl,
      readRegister_writeRegister_config v aligned hl hu idle, fun other ne _ _ => ?_⟩
    rw [readRegister_writeRegister_other (s := { s with agenda := rest }) v aligned hl hu idle ne]
    unfold readRegister
    split <;> rfl

end Sys2Proof.Machine

end

section

/-! The interrupt output (60_exceptions.md R165). -/

namespace Sys2Proof.Machine

variable {s : State}

/-- A state has its own enables, so this is `irq_withEnables` at them. -/
theorem irq_iff : irq s = true ↔ (s.okIf = true ∧ s.okIe = true) ∨ (s.failIf = true ∧ s.failIe = true) :=
  irq_withEnables (a := s.okIe) (b := s.failIe) (s := s)

/-- A written 1 clears its flag, so its enable no longer holds `irq` up. -/
theorem irq_clearFlags (v : Word) :
    irq (clearFlags v s) = true ↔
      (s.okIf = true ∧ v.getLsbD 0 = false ∧ s.okIe = true) ∨
        (s.failIf = true ∧ v.getLsbD 1 = false ∧ s.failIe = true) := by
  rw [irq_iff]
  simp only [clearFlags, Bool.and_eq_true, Bool.not_eq_true', and_assoc]

/-- The enables are the two bits written. -/
theorem irq_storeIen (v : Word) :
    irq (storeIen v s) = true ↔ (s.okIf = true ∧ v.getLsbD 0 = true) ∨ (s.failIf = true ∧ v.getLsbD 1 = true) := by
  rw [storeIen_eq_withEnables]
  exact irq_withEnables

/-- Settles O55: a write to `IFLAG` is `clearFlags`, a write to `IEN` is `storeIen`, and neither reads the agenda. -/
theorem interruptLevel : Obligations.InterruptLevel := by
  unfold Obligations.InterruptLevel
  refine ⟨fun s => irq_iff, irq_reset, fun s rest v h => ?iflag, fun s rest v h => ?ien⟩
  case iflag =>
    exact ⟨clearFlags v { s with agenda := rest }, step_write h (by decide), irq_clearFlags v⟩
  case ien =>
    exact ⟨storeIen v { s with agenda := rest }, step_write h (by decide), irq_storeIen v⟩

end Sys2Proof.Machine

end

section

/-! The two directions of the round trip (30_encoding.md R74), and the step that runs what the decoder reads. -/

namespace Sys2Proof.Machine

open Sys2Proof.Laws

/-- Settles O4: the round trip of each operation, put together. -/
theorem decodeOfEncodeIsIdentity : Obligations.DecodeOfEncodeIsIdentity := by
  unfold Obligations.DecodeOfEncodeIsIdentity
  intro i
  cases i with
  | idle => exact RoundTrip.idle
  | startA => exact RoundTrip.startA
  | startB => exact RoundTrip.startB
  | settle => exact RoundTrip.settle
  | ackA => exact RoundTrip.ackA
  | ackB => exact RoundTrip.ackB
  | ackC => exact RoundTrip.ackC
  | bitStart => exact RoundTrip.bitStart
  | bitMeasure => exact RoundTrip.bitMeasure
  | bitEnd => exact RoundTrip.bitEnd
  | validate => exact RoundTrip.validate
  | backoff => exact RoundTrip.backoff
  | phaseReserved low => exact RoundTrip.phaseReserved low
  | start rest => exact RoundTrip.start rest
  | ack rest => exact RoundTrip.ack rest
  | nop rest => exact RoundTrip.nop rest
  | cmd => exact RoundTrip.cmd
  | status a => exact RoundTrip.status a
  | iflag a => exact RoundTrip.iflag a
  | ien a => exact RoundTrip.ien a
  | cfg a => exact RoundTrip.cfg a
  | thresh a => exact RoundTrip.thresh a
  | tStartA a => exact RoundTrip.tStartA a
  | tStartB a => exact RoundTrip.tStartB a
  | tSettle a => exact RoundTrip.tSettle a
  | tAck a => exact RoundTrip.tAck a
  | tBitStart a => exact RoundTrip.tBitStart a
  | tMeasure a => exact RoundTrip.tMeasure a
  | tBitEnd a => exact RoundTrip.tBitEnd a
  | tBackoff a => exact RoundTrip.tBackoff a
  | data0 a => exact RoundTrip.data0 a
  | data1 a => exact RoundTrip.data1 a
  | reading a => exact RoundTrip.reading a
  | chk a => exact RoundTrip.chk a
  | elapsed a => exact RoundTrip.elapsed a
  | reserved4C a => exact RoundTrip.reserved4C a
  | reserved50 slot a => exact RoundTrip.reserved50 slot a
  | reserved60 slot a => exact RoundTrip.reserved60 slot a
  | reserved80 slot a => exact RoundTrip.reserved80 slot a
  | bit0 gap width => exact RoundTrip.bit0 gap width
  | bit1 gap width => exact RoundTrip.bit1 gap width

/-- 30_encoding.md R65, R70: each of the sixteen codes is written back. -/
theorem encode_decodePhase : ∀ code : BitVec 4, encode (decodePhase code) = .phase code := by decide

/-- A word is the part the decoder keeps above the bits that selected the command. -/
theorem extract_append_low {n m : Nat} {v : BitVec (n + m)} {low : BitVec m} (h : v.setWidth m = low) :
    v.extractLsb' m n ++ low = v := by
  rw [← h, BitVec.setWidth_eq_extractLsb' (Nat.le_add_left m n),
    BitVec.extractLsb'_append_extractLsb'_eq_extractLsb' (Nat.zero_add m).symm]
  exact extract_whole v

/-- The bits that select the command, as a field of their own. -/
theorem setWidth_two_eq (v : Word) :
    v.setWidth 2 = BitVec.ofBool (v.getLsbD 1) ++ BitVec.ofBool (v.getLsbD 0) := by
  have pair : ∀ w : BitVec 2, w = BitVec.ofBool (w.getLsbD 1) ++ BitVec.ofBool (w.getLsbD 0) := by decide
  simpa using pair (v.setWidth 2)

/-- 30_encoding.md R68: the ignored bits of a command word are written back above the bits that select the command. -/
theorem encode_decodeCmd (v : Word) : encode (decodeCmd v) = .write 0x00 4 v := by
  cases h0 : v.getLsbD 0 with
  | true =>
    have low : v.setWidth 1 = 0b1#1 := BitVec.eq_of_getLsbD_eq fun i hi => by
      obtain rfl : i = 0 := by omega
      simpa using h0
    rw [decodeCmd_start h0]
    exact congrArg (OpWord.write 0x00 4) (extract_append_low (n := 31) low)
  | false =>
    have low := setWidth_two_eq v
    rw [h0] at low
    cases h1 : v.getLsbD 1 with
    | true =>
      rw [h1] at low
      rw [decodeCmd_ack h0 h1]
      exact congrArg (OpWord.write 0x00 4) (extract_append_low (n := 30) low)
    | false =>
      rw [h1] at low
      rw [decodeCmd_nop h0 h1]
      exact congrArg (OpWord.write 0x00 4) (extract_append_low (n := 30) low)

/-- 30_encoding.md R69: a slot's register is written back at the slot's offset. -/
theorem encode_decodeSlot {k : Nat} (hk : k < 64) (a : Access) : encode (decodeSlot k a) = encodeAccess (4 * k) a := by
  rcases Nat.eq_zero_or_pos k with rfl | pos
  · cases a with
    | read => rfl
    | write v => exact encode_decodeCmd v
  · interval_cases k <;> rfl

theorem encode_decodeAccess {addr n : Nat} {a : Access} {i : Instr} (h : decodeAccess addr n a = .ok i) :
    n = 4 ∧ encode i = encodeAccess addr a := by
  unfold decodeAccess at h
  split at h
  next => cases h
  next noError =>
    obtain ⟨width, aligned, inside⟩ := accessError_none.mp noError
    cases h
    refine ⟨width, ?_⟩
    rw [encode_decodeSlot (by omega), Nat.mul_div_cancel' (Nat.dvd_of_mod_eq_zero aligned)]

theorem encode_decodeSymbol (b : Bool) (gap width : Nat) :
    encode (decodeSymbol b gap width) = .symbol b gap width := by cases b <;> rfl

/-- Settles O5, format by format. -/
theorem encodeOfDecodeIsIdentity : Obligations.EncodeOfDecodeIsIdentity := by
  unfold Obligations.EncodeOfDecodeIsIdentity
  intro w i h
  cases w with
  | phase code =>
    cases h
    exact encode_decodePhase code
  | read addr n =>
    obtain ⟨rfl, written⟩ := encode_decodeAccess h
    exact written
  | write addr n v =>
    obtain ⟨rfl, written⟩ := encode_decodeAccess h
    exact written
  | symbol b gap width =>
    cases h
    exact encode_decodeSymbol b gap width

/-- Settles O9. -/
theorem writtenOutWordsDecode : Obligations.WrittenOutWordsDecode := by
  unfold Obligations.WrittenOutWordsDecode
  exact ⟨rfl, rfl, rfl, rfl, rfl, rfl, rfl, rfl, rfl⟩

section Fetched

variable {s s' : State} {w : OpWord}

/-- A step on a fetched operation is `exec` of what the decoder reads (00_scope.md R6). -/
theorem step_of_decode {i : Instr} (fetched : fetch s = .operation w s') (decoded : decode w = .ok i) :
    step s = exec i s' := by
  simp only [step, fetched, decoded]

/-- A step on an operation the decoder rejects is refused (20_memory.md R42). -/
theorem step_of_decode_error {e : DecodeError} (fetched : fetch s = .operation w s') (rejected : decode w = .error e) :
    step s = .refused (refusalOf e) := by
  simp only [step, fetched, rejected]

theorem fetch_nil (h : s.agenda = []) : fetch s = .operation (.phase (phaseCode s.pc)) (takeFreeSample s) := by
  simp only [fetch, h]

variable {rest : List Event}

theorem fetch_tick {l : Level} (h : s.agenda = .tick l :: rest) :
    fetch s = .operation (.phase (phaseCode s.pc)) (sampleLine l { s with agenda := rest }) := by
  simp only [fetch, h]

theorem fetch_read {addr n : Nat} (h : s.agenda = .read addr n :: rest) :
    fetch s = .operation (.read addr n) { s with agenda := rest } := by
  simp only [fetch, h]

theorem fetch_write {addr n : Nat} {v : Word} (h : s.agenda = .write addr n v :: rest) :
    fetch s = .operation (.write addr n v) { s with agenda := rest } := by
  simp only [fetch, h]

theorem fetch_symbol {b : Bool} {gap width : Nat} (h : s.agenda = .symbol b gap width :: rest) :
    fetch s = .operation (.symbol b gap width) { s with agenda := rest } := by
  simp only [fetch, h]

end Fetched

/-- Settles O2: what is fetched is the entry's operation, on the state without the entry. -/
theorem stepRunsDecodedOperation : Obligations.StepRunsDecodedOperation := by
  unfold Obligations.StepRunsDecodedOperation
  exact fun s rest i =>
    ⟨fun l ha => step_of_decode (fetch_tick ha), fun ha => step_of_decode (fetch_nil ha),
      fun addr n ha => step_of_decode (fetch_read ha), fun addr n v ha => step_of_decode (fetch_write ha),
      fun b gap width ha => step_of_decode (fetch_symbol ha)⟩

theorem decodeAccess_error {addr n : Nat} {a : Access} {e : DecodeError} (h : accessError addr n = some e) :
    decodeAccess addr n a = .error e := by
  simp only [decodeAccess, h]

/-- 20_memory.md R42: a host access is refused by what is wrong with it. -/
theorem step_access_refused {s : State} {rest : List Event} {addr n : Nat} {v : Word} {e : DecodeError}
    (ha : s.agenda = .read addr n :: rest ∨ s.agenda = .write addr n v :: rest) (wrong : accessError addr n = some e) :
    step s = .refused (refusalOf e) := by
  rcases ha with ha | ha
  · exact step_of_decode_error (fetch_read ha) (decodeAccess_error wrong)
  · exact step_of_decode_error (fetch_write ha) (decodeAccess_error wrong)

theorem accessError_width {addr n : Nat} (h : n ≠ 4) : accessError addr n = some .accessWidth := if_pos h

theorem accessError_misaligned {addr n : Nat} (hn : n = 4) (h : addr % 4 ≠ 0) :
    accessError addr n = some .accessMisaligned :=
  (if_neg (not_not_intro hn)).trans (if_pos h)

theorem accessError_outOfRange {addr n : Nat} (hn : n = 4) (aligned : addr % 4 = 0) (h : 0xFC < addr) :
    accessError addr n = some .accessOutOfRange :=
  (if_neg (not_not_intro hn)).trans ((if_neg (not_not_intro aligned)).trans (if_pos h))

/-- An accepted entry has a next state (20_memory.md R42, R46). -/
theorem exists_step_of_accepted {s : State} {e : Event} {rest : List Event} (ha : s.agenda = e :: rest)
    (accepted : acceptedEvent e) : ∃ t, step s = .next t := by
  cases e with
  | tick l => exact ⟨_, step_tick ha⟩
  | read addr n => exact ⟨_, step_read ha accepted⟩
  | write addr n v => exact ⟨_, step_write ha accepted⟩
  | symbol b gap width => exact ⟨_, step_symbol ha⟩
  | reset => exact ⟨_, step_reset ha⟩

/-- Settles O3: every accepted entry has its step, an access that answers is one the port can carry, and any other is
refused by its first error. -/
theorem stepCompletesExactlyOnAcceptedEntries : Obligations.StepCompletesExactlyOnAcceptedEntries := by
  unfold Obligations.StepCompletesExactlyOnAcceptedEntries
  refine ⟨fun s => ⟨?accepted, fun accepted => ?completes⟩, fun s rest addr n v ha =>
    ⟨fun hn => step_access_refused ha (accessError_width hn),
      fun hn misaligned => step_access_refused ha (accessError_misaligned hn misaligned),
      fun hn aligned beyond => step_access_refused ha (accessError_outOfRange hn aligned beyond)⟩⟩
  case accepted =>
    rintro ⟨t, h⟩ e rest ha
    exact accepted_of_step ha h
  case completes =>
    cases ha : s.agenda with
    | nil => exact ⟨_, step_free ha⟩
    | cons e rest => exact exists_step_of_accepted ha (accepted e rest ha)

theorem phaseCode_le (p : Phase) : (phaseCode p).toNat ≤ 11 := by cases p <;> decide

theorem reasonCode_le (r : Reason) : (reasonCode r).toNat ≤ 5 := by cases r <;> decide

/-- Settles O29: the arm of the reserved codes is its refusal; the bounds are those of the enumerations' codes. -/
theorem reservedPhaseCodesAreNeverHeld : Obligations.ReservedPhaseCodesAreNeverHeld := by
  unfold Obligations.ReservedPhaseCodesAreNeverHeld
  exact ⟨fun low s => rfl, fun s => ⟨phaseCode_le s.pc, reasonCode_le s.reason, Nat.le_of_lt_succ s.bitIdx.isLt⟩⟩

/-- Settles O46, clause by clause: the reset values are closed. -/
theorem invariantHoldsAtReset : Obligations.InvariantHoldsAtReset := by
  unfold Obligations.InvariantHoldsAtReset
  constructor <;> decide

/-- Settles O47: `Inv.step`, by the kinds of a step. -/
theorem everyStepKeepsInvariant : Obligations.EveryStepKeepsInvariant := by
  unfold Obligations.EveryStepKeepsInvariant
  exact fun s t => Inv.step

end Sys2Proof.Machine

end

section

/-! What a tick reads: neither the fields outside the attempt's view, nor, outside the six wait phases, the sample. So
the engine's runs agree over states with one view, and host accesses in between do not disturb them
(00_scope.md R7, R8). -/

namespace Sys2Proof.Machine

/-- The bit that ends is the frame's last (42_bit_sampler.md R102). -/
theorem endBit_last {s : State} (last : s.bitIdx = 39) :
    endBit s = { s with elapsed := 0#32, pc := .validate } := if_pos last

/-- The bit that ends is followed by another (42_bit_sampler.md R102). -/
theorem endBit_next {s : State} (more : s.bitIdx ≠ 39) :
    endBit s = { s with elapsed := 0#32, bitIdx := s.bitIdx + 1, pc := .bitStart } := if_neg more

/-- A state less what no tick reads: the flags, the enables and the model's own fields but the sample. -/
def State.seenByTick (s : State) : State :=
  { s with
    okIf := false
    failIf := false
    okIe := false
    failIe := false
    agenda := []
    freeIdx := 0
    readData := 0#32 }

section View

variable {target : Level} {t : Ticks} {r : Reason} {f : Word → State → State} {g : State → State} {s : State}

/-- A wait shows the same attempt without the unseen fields, if its own effect does. -/
theorem waitPhase_seenByTick (effect : ∀ e u, (f e u.seenByTick).attemptView = (f e u).attemptView) :
    (waitPhase target t r f s.seenByTick).attemptView = (waitPhase target t r f s).attemptView := by
  rcases waitPhase_cases (target := target) (t := t) (r := r) (f := f) (s := s) with
    ⟨seen, k⟩ | ⟨off, late, k⟩ | ⟨off, inTime, k⟩ <;> rw [k]
  · rw [waitPhase_done (s := s.seenByTick) seen]
    exact effect s.elapsed s
  · rw [waitPhase_timeout (s := s.seenByTick) off late]
    rfl
  · rw [waitPhase_continue (s := s.seenByTick) off inTime]
    rfl

/-- A hold shows the same attempt without the unseen fields, if its own effect does. -/
theorem holdPhase_seenByTick (effect : ∀ u : State, (g u.seenByTick).attemptView = (g u).attemptView) :
    (holdPhase t g s.seenByTick).attemptView = (holdPhase t g s).attemptView := by
  rcases holdPhase_cases (t := t) (g := g) (s := s) with ⟨up, k⟩ | ⟨early, k⟩ <;> rw [k]
  · rw [holdPhase_expired (s := s.seenByTick) up]
    exact effect { s with elapsed := 0#32 }
  · rw [holdPhase_continue (s := s.seenByTick) early]
    rfl

theorem endBit_seenByTick : (endBit s.seenByTick).attemptView = (endBit s).attemptView := by
  by_cases last : s.bitIdx = 39
  · rw [endBit_last last, endBit_last (s := s.seenByTick) last]
    rfl
  · rw [endBit_next last, endBit_next (s := s.seenByTick) last]
    rfl

theorem fail_seenByTick : (fail r s.seenByTick).attemptView = (fail r s).attemptView := rfl

theorem succeed_seenByTick : (succeed s.seenByTick).attemptView = (succeed s).attemptView := rfl

theorem beginAttempt_seenByTick : (beginAttempt s.seenByTick).attemptView = (beginAttempt s).attemptView := rfl

theorem tickValidate_seenByTick : (tickValidate s.seenByTick).attemptView = (tickValidate s).attemptView := by
  by_cases agrees : checksum s.x = s.x.b4
  · rw [tickValidate_success agrees, tickValidate_success (s := s.seenByTick) agrees]
    exact succeed_seenByTick (s := publish (recordChecksums s))
  · rw [tickValidate_mismatch agrees, tickValidate_mismatch (s := s.seenByTick) agrees]
    exact fail_seenByTick (s := recordChecksums s)

/-- 00_scope.md R8: what an attempt shows after a tick depends on what it showed and on the sample. -/
theorem tickPhase_seenByTick : (tickPhase s.seenByTick).attemptView = (tickPhase s).attemptView := by
  refine tickPhase_elim (P := fun u => (tickPhase s.seenByTick).attemptView = u.attemptView)
    (idle := fun hp => ?idle) (startA := fun hp => ?startA) (startB := fun hp => ?startB)
    (settle := fun hp => ?settle) (ackA := fun hp => ?ackA) (ackB := fun hp => ?ackB) (ackC := fun hp => ?ackC)
    (bitStart := fun hp => ?bitStart) (bitMeasure := fun hp => ?bitMeasure) (bitEnd := fun hp => ?bitEnd)
    (validate := fun hp => ?validate) (backoff := fun hp => ?backoff)
  case idle => rw [tickPhase_idle (s := s.seenByTick) hp]; rfl
  case startA => rw [tickPhase_startA s.seenByTick hp]; exact holdPhase_seenByTick fun _ => rfl
  case startB => rw [tickPhase_startB s.seenByTick hp]; exact holdPhase_seenByTick fun _ => rfl
  case settle => rw [tickPhase_settle s.seenByTick hp]; exact holdPhase_seenByTick fun _ => rfl
  case ackA => rw [tickPhase_ackA s.seenByTick hp]; exact waitPhase_seenByTick fun _ _ => rfl
  case ackB => rw [tickPhase_ackB s.seenByTick hp]; exact waitPhase_seenByTick fun _ _ => rfl
  case ackC => rw [tickPhase_ackC s.seenByTick hp]; exact waitPhase_seenByTick fun _ _ => rfl
  case bitStart => rw [tickPhase_bitStart s.seenByTick hp]; exact waitPhase_seenByTick fun _ _ => rfl
  case bitMeasure => rw [tickPhase_bitMeasure s.seenByTick hp]; exact waitPhase_seenByTick fun _ _ => rfl
  case bitEnd => rw [tickPhase_bitEnd s.seenByTick hp]; exact waitPhase_seenByTick fun _ _ => endBit_seenByTick
  case validate => rw [tickPhase_validate s.seenByTick hp]; exact tickValidate_seenByTick
  case backoff => rw [tickPhase_backoff s.seenByTick hp]; exact holdPhase_seenByTick fun _ => beginAttempt_seenByTick

end View

/-- 00_scope.md R8, for one tick. -/
theorem engineTick_attemptView {s t : State} (l : Level) (same : s.attemptView = t.attemptView) :
    (engineTick l s).attemptView = (engineTick l t).attemptView := by
  have seen : (sampleLine l s).seenByTick = (sampleLine l t).seenByTick :=
    congrArg (fun u : State => { u with lineIn := l }) same
  calc (engineTick l s).attemptView = (tickPhase (sampleLine l s).seenByTick).attemptView :=
        tickPhase_seenByTick.symm
    _ = (engineTick l t).attemptView := by rw [seen]; exact tickPhase_seenByTick

/-- 00_scope.md R8, for a run of ticks. -/
theorem runSamples_attemptView (ls : List Level) {s t : State} (same : s.attemptView = t.attemptView) :
    (runSamples ls s).attemptView = (runSamples ls t).attemptView := by
  induction ls generalizing s t with
  | nil => exact same
  | cons l ls ih => exact ih (engineTick_attemptView l same)

/-- `begin_attempt()` keeps of what an attempt shows the configuration alone (44_retry_controller.md R116). -/
theorem beginAttempt_attemptView (s : State) :
    (beginAttempt s).attemptView = (beginAttempt s.configView).attemptView := rfl

/-- Settles O51: attempts begun under one configuration show the same, and runs keep that. -/
theorem outcomeIsFunctionOfConfigAndSamples : Obligations.OutcomeIsFunctionOfConfigAndSamples := by
  unfold Obligations.OutcomeIsFunctionOfConfigAndSamples
  intro s t ls hs ht (config : s.configView = t.configView)
  rw [startCommand_idle hs, startCommand_idle ht]
  refine runSamples_attemptView ls ?_
  rw [beginAttempt_attemptView, config, ← beginAttempt_attemptView]

/-! The machine's run over its agenda. -/

theorem run_succ_of_step {M : Host.Core} {s t : M.State} {n : Nat} (h : M.step s = .next t) :
    M.run (n + 1) s = M.run n t := by
  rw [Host.Core.run, h]

theorem core_run_succ {s t : State} {n : Nat} (h : step s = .next t) :
    Sys2Proof.core.run (n + 1) s = Sys2Proof.core.run n t :=
  run_succ_of_step (M := Sys2Proof.core) h

theorem engineTick_agenda (l : Level) (s : State) : (engineTick l s).agenda = s.agenda := by
  have own := congrArg State.agenda (engineTick_outer l s s.agenda s.freeIdx s.readData)
  exact own

theorem runSamples_setAgenda (ls : List Level) (s : State) (a : List Event) :
    runSamples ls { s with agenda := a } = { runSamples ls s with agenda := a } :=
  have own := runSamples_outer ls s s.agenda s.freeIdx s.readData
  (runSamples_outer ls s a s.freeIdx s.readData).trans (congrArg (fun u : State => { u with agenda := a }) own.symm)

/-- 00_scope.md R6: one step per tick entry. -/
theorem core_run_ticks (ls : List Level) (rest : List Event) (s : State) :
    Sys2Proof.core.run ls.length { s with agenda := ls.map Event.tick ++ rest } =
      .next { runSamples ls s with agenda := rest } := by
  induction ls generalizing s with
  | nil => rfl
  | cons l ls ih =>
    have tick : step { s with agenda := (l :: ls).map Event.tick ++ rest } =
        .next { engineTick l s with agenda := ls.map Event.tick ++ rest } := by
      rw [step_tick (l := l) (rest := ls.map Event.tick ++ rest) rfl]
      exact congrArg Host.Outcome.next (runSamples_setAgenda [l] s _)
    exact (core_run_succ tick).trans (ih (engineTick l s))

theorem symbolSamples_length (gap width : Nat) : (symbolSamples gap width).length = gap + width + 2 := by
  simp only [symbolSamples, List.length_append, List.length_replicate, List.length_cons, List.length_nil]
  omega

theorem symbolSamples_map_tick (gap width : Nat) :
    (symbolSamples gap width).map Event.tick =
      List.replicate gap (.tick .low) ++ List.replicate width (.tick .high) ++ [.tick .low, .tick .low] := by
  simp only [symbolSamples, List.map_append, List.map_replicate, List.map_cons, List.map_nil, List.append_assoc]

/-- Settles O10: a tick entry is one engine tick, which does not touch the agenda; a symbol entry is the run over its
samples. -/
theorem runOfTicksIsEngineOverSamples : Obligations.RunOfTicksIsEngineOverSamples := by
  unfold Obligations.RunOfTicksIsEngineOverSamples
  refine ⟨core_run_ticks, fun b gap width rest s => ?symbol⟩
  have ticks := core_run_ticks (symbolSamples gap width) rest s
  rw [symbolSamples_length, symbolSamples_map_tick] at ticks
  rw [ticks, step_symbol (rest := rest) rfl]
  exact congrArg Host.Outcome.next (runSamples_setAgenda _ s rest)

/-! Host accesses in between. -/

theorem commandWrite_agenda (v : Word) (s : State) : (commandWrite v s).agenda = s.agenda := by
  unfold commandWrite startCommand ackCommand
  repeat' split
  all_goals rfl

theorem writeRegister_agenda (addr : Nat) (v : Word) (s : State) : (writeRegister addr v s).agenda = s.agenda := by
  rcases writeRegister_cases addr v s with ⟨_, k⟩ | ⟨_, k⟩ | ⟨_, k⟩ | ⟨_, _, k⟩ |
    ⟨_, _, _, _, _, _, _, _, _, _, k⟩ | k <;>
    rw [k]
  · exact commandWrite_agenda v s
  all_goals rfl

/-- A host access takes its entry off the agenda (20_memory.md R44, 45_host_interface.md R131). -/
theorem step_hostAccess {s : State} {e : Event} {rest : List Event} (ha : s.agenda = e :: rest) (host : hostAccess e) :
    ∃ t, step s = .next t ∧ t.agenda = rest := by
  cases e with
  | read addr n => exact ⟨_, step_read ha host, rfl⟩
  | write addr n v => exact ⟨_, step_write ha host, writeRegister_agenda addr v { s with agenda := rest }⟩
  | tick | symbol | reset => exact host.elim

theorem tickSamples_tick (l : Level) (es : List Event) : tickSamples (.tick l :: es) = l :: tickSamples es := rfl

theorem tickSamples_hostAccess {e : Event} (host : hostAccess e) (es : List Event) :
    tickSamples (e :: es) = tickSamples es := by
  cases e with
  | read | write => rfl
  | tick | symbol | reset => exact host.elim

/-- A run over ticks and host accesses shows at its end what the bare ticks show, from a state that shows the same, as
long as each access falls while the bare attempt is busy. -/
theorem core_run_attemptView (es rest : List Event) {s u : State} (ha : s.agenda = es ++ rest)
    (same : s.attemptView = u.attemptView) (entries : ∀ e ∈ es, (∃ l, e = .tick l) ∨ hostAccess e)
    (busy : ∀ before e after, es = before ++ e :: after → hostAccess e →
      (runSamples (tickSamples before) u).pc ≠ .idle) :
    ∃ t, Sys2Proof.core.run es.length s = .next t ∧ t.agenda = rest ∧
      t.attemptView = (runSamples (tickSamples es) u).attemptView := by
  induction es generalizing s u with
  | nil => exact ⟨s, rfl, ha, same⟩
  | cons e es ih =>
    have tailEntries : ∀ e' ∈ es, (∃ l, e' = .tick l) ∨ hostAccess e' :=
      fun e' h => entries e' (List.mem_cons_of_mem e h)
    rcases entries e List.mem_cons_self with ⟨l, rfl⟩ | host
    · rw [List.length_cons, core_run_succ (step_tick ha), tickSamples_tick]
      refine ih (engineTick_agenda l _) (engineTick_attemptView l same) tailEntries fun before e' after cut host => ?_
      exact busy (.tick l :: before) e' after (congrArg _ cut) host
    · obtain ⟨t, stepped, agenda⟩ := step_hostAccess ha host
      have here : s.pc ≠ .idle := by
        have samePc : s.attemptView.pc = u.attemptView.pc := congrArg State.pc same
        rw [show s.pc = u.pc from samePc]
        exact busy [] e es rfl host
      rw [List.length_cons, core_run_succ stepped, tickSamples_hostAccess host]
      refine ih agenda ((step_hostAccess_attemptView ha host stepped here).trans same) tailEntries
        fun before e' after cut host' => ?_
      rw [← tickSamples_hostAccess host before]
      exact busy (e :: before) e' after (congrArg _ cut) host'

/-- Settles O52: a busy engine's view is kept by every access, and runs from one view show the same. -/
theorem hostAccessesDoNotDisturbAttempt : Obligations.HostAccessesDoNotDisturbAttempt := by
  unfold Obligations.HostAccessesDoNotDisturbAttempt
  exact fun s es rest entries busy =>
    core_run_attemptView es rest (s := { s with agenda := es ++ rest }) (u := s) rfl rfl entries busy

/-! Outside the wait phases the sample is not read. -/

theorem holdPhase_sampleLine {t : Ticks} {g : State → State} {l : Level} {s : State}
    (effect : ∀ u, g (sampleLine l u) = sampleLine l (g u)) :
    holdPhase t g (sampleLine l s) = sampleLine l (holdPhase t g s) := by
  rcases holdPhase_cases (t := t) (g := g) (s := s) with ⟨up, k⟩ | ⟨early, k⟩ <;> rw [k]
  · exact (holdPhase_expired (s := sampleLine l s) up).trans (effect { s with elapsed := 0#32 })
  · exact holdPhase_continue (s := sampleLine l s) early

theorem tickValidate_sampleLine {l : Level} {s : State} :
    tickValidate (sampleLine l s) = sampleLine l (tickValidate s) := by
  by_cases agrees : checksum s.x = s.x.b4
  · rw [tickValidate_success agrees, tickValidate_success (s := sampleLine l s) agrees]
    rfl
  · rw [tickValidate_mismatch agrees, tickValidate_mismatch (s := sampleLine l s) agrees]
    rfl

/-- 10_state.md R25: a tick outside the wait phases does what it would at any other sample. -/
theorem engineTick_unread {s : State} (l : Level) (h : ¬ waitPhaseOf s.pc) :
    engineTick l s = sampleLine l (tickPhase s) := by
  unfold engineTick
  cases hp : s.pc with
  | idle => rw [tickPhase_idle hp, tickPhase_idle (s := sampleLine l s) hp]
  | startA =>
    rw [tickPhase_startA s hp, tickPhase_startA (sampleLine l s) hp]
    exact holdPhase_sampleLine fun _ => rfl
  | startB =>
    rw [tickPhase_startB s hp, tickPhase_startB (sampleLine l s) hp]
    exact holdPhase_sampleLine fun _ => rfl
  | settle =>
    rw [tickPhase_settle s hp, tickPhase_settle (sampleLine l s) hp]
    exact holdPhase_sampleLine fun _ => rfl
  | validate =>
    rw [tickPhase_validate s hp, tickPhase_validate (sampleLine l s) hp]
    exact tickValidate_sampleLine
  | backoff =>
    rw [tickPhase_backoff s hp, tickPhase_backoff (sampleLine l s) hp]
    exact holdPhase_sampleLine fun _ => rfl
  | ackA | ackB | ackC | bitStart | bitMeasure | bitEnd => exact absurd (by rw [hp]; decide) h

/-- Settles O58: outside the wait phases the sample stands in `lineIn` alone, which the block does not show. -/
theorem sampleIgnoredOutsideWaits : Obligations.SampleIgnoredOutsideWaits := by
  unfold Obligations.SampleIgnoredOutsideWaits
  intro s l m h
  rw [engineTick_unread l h, engineTick_unread m h]
  rfl

end Sys2Proof.Machine

end

section

/-! The wire symbols (42_bit_sampler.md R100 to R107): one symbol, forty of them, and a whole attempt. -/

namespace Sys2Proof.Machine

section WaitRuns

variable {i : Instr} {p : Phase} {target off : Level} {timeout : State → Ticks} {entry n : Nat} {r : Reason}
  {done : Word → State → State} {s : State}

theorem WaitPhase.ends (h : WaitPhase i p target timeout entry r done) (hp : s.pc = p) (he : s.elapsed.toNat = entry)
    (ne : off ≠ target) (inTime : entry + n ≤ (timeout s).toNat + 1) :
    engineTick target (runSamples (List.replicate n off) s) =
      done (BitVec.ofNat 32 (entry + n)) { counted (List.replicate n off) s with lineIn := target } := by
  obtain ⟨_, ends, _⟩ := h
  obtain ⟨_, ended⟩ := ends s (List.replicate n off) hp he (fun l hl => List.eq_of_mem_replicate hl ▸ ne)
    (by rw [List.length_replicate]; exact inTime)
  rw [runSamples_append, List.length_replicate] at ended
  exact ended

theorem WaitPhase.fails (h : WaitPhase i p target timeout entry r done) (hp : s.pc = p) (he : s.elapsed.toNat = entry)
    (ne : off ≠ target) (late : entry + n = (timeout s).toNat + 2) :
    runSamples (List.replicate n off) s = fail r { s with lineIn := off } := by
  obtain ⟨_, _, fails⟩ := h
  rw [fails s (List.replicate n off) hp he (fun l hl => List.eq_of_mem_replicate hl ▸ ne)
    (by rw [List.length_replicate]; exact late), ← eq_opposite_of_ne ne]

/-- BIT_START as a WAIT (42_bit_sampler.md R100). -/
theorem waitPhase_bitStart :
    WaitPhase .bitStart .bitStart .high (fun s => s.tBitStart) 0 .bitStartTimeout
      (fun _ t => { t with elapsed := 1#32, pc := .bitMeasure }) :=
  bitStartWaitsForRise

/-- BIT_MEASURE as a WAIT (42_bit_sampler.md R101). -/
theorem waitPhase_bitMeasure :
    WaitPhase .bitMeasure .bitMeasure .low (fun s => s.tMeasure) 1 .bitMeasureTimeout
      (fun e t => { t with x := pack t.x t.bitIdx (classify e t.thresh), elapsed := 0#32, pc := .bitEnd }) :=
  bitMeasureClassifiesAndPacks

end WaitRuns

section LongSymbols

variable {s : State} (hp : s.pc = .bitStart) (he : s.elapsed = 0#32)

include hp he

/-- A pulse of `T_MEASURE + 2` samples fails at the last of them (42_bit_sampler.md R101). -/
theorem runSamples_long_pulse {gap : Nat} (fits : gap ≤ s.tBitStart.toNat + 1) :
    runSamples (List.replicate gap .low ++ List.replicate (s.tMeasure.toNat + 2) .high) s =
      fail .bitMeasureTimeout { s with lineIn := .high } := by
  have entry : s.elapsed.toNat = 0 := by rw [he]; rfl
  have rise := waitPhase_bitStart.ends (off := .low) hp entry (by decide) ((Nat.zero_add gap).trans_le fits)
  rw [runSamples_append, List.replicate_succ, runSamples_cons, rise, waitPhase_bitMeasure.fails rfl rfl (by decide)
    (by rw [Nat.add_comm]; rfl)]
  rfl

/-- A gap of `T_BITSTART + 2` samples fails at the last of them (42_bit_sampler.md R100). -/
theorem runSamples_long_gap :
    runSamples (List.replicate (s.tBitStart.toNat + 2) .low) s = fail .bitStartTimeout { s with lineIn := .low } :=
  waitPhase_bitStart.fails hp (by rw [he]; rfl) (by decide) (Nat.zero_add _)

end LongSymbols

/-- A symbol whose first samples are `ms` is received as the rest of it after `ms`. -/
theorem receiveSymbol_of_append {gap width : Nat} {ms rest : List Level} {s : State}
    (h : symbolSamples gap width = ms ++ rest) :
    receiveSymbol gap width s = runSamples ((symbolSamples gap width).drop ms.length) (runSamples ms s) := by
  rw [receiveSymbol, h, List.drop_left, runSamples_append]

/-- A symbol the sampler takes as one bit, under the configuration of `s` (42_bit_sampler.md R100, R101). -/
abbrev WithinBudgets (s : State) (p : Nat × Nat) : Prop :=
  p.1 ≤ s.tBitStart.toNat + 1 ∧ 1 ≤ p.2 ∧ p.2 ≤ s.tMeasure.toNat + 1

section OneSymbol

variable {s : State} {p : Nat × Nat} (hp : s.pc = .bitStart) (he : s.elapsed = 0#32) (fits : WithinBudgets s p)

include hp he fits

/-- A symbol before the last brings the sampler to the next bit (42_bit_sampler.md R102). -/
theorem receiveSymbol_next (more : s.bitIdx ≠ 39) :
    receiveSymbol p.1 p.2 s =
      { s with
        x := pack s.x s.bitIdx (decide (s.thresh.toNat < p.2)), bitIdx := s.bitIdx + 1, lineIn := .low } := by
  obtain ⟨gapFits, sampled, pulseFits⟩ := fits
  rw [receiveSymbol_bitStart hp he gapFits sampled pulseFits, endBit_next (by exact more), ← hp, ← he]

/-- The last symbol brings the sampler to VALIDATE (42_bit_sampler.md R102). -/
theorem receiveSymbol_last (last : s.bitIdx = 39) :
    receiveSymbol p.1 p.2 s =
      { s with
        x := pack s.x s.bitIdx (decide (s.thresh.toNat < p.2)), bitIdx := 39, pc := .validate, lineIn := .low } := by
  obtain ⟨gapFits, sampled, pulseFits⟩ := fits
  rw [receiveSymbol_bitStart hp he gapFits sampled pulseFits, endBit_last (by exact last), ← he, ← last]

end OneSymbol

/-- Settles O43: both rows are one run of samples, whose waits end, or time out, where their lengths say. -/
theorem symbolIsOneClassifiedBit : Obligations.SymbolIsOneClassifiedBit := by
  unfold Obligations.SymbolIsOneClassifiedBit
  refine ⟨fun s gap width => ⟨rfl, rfl⟩, fun s gap width hp he => ⟨receiveSymbol gap width s, rfl, rfl,
    fun gapFits sampled pulseFits => ?fits, fun gapFits long => ?longPulse, fun long => ?longGap⟩⟩
  case fits =>
    by_cases last : s.bitIdx = 39
    · rw [receiveSymbol_last (p := (gap, width)) hp he ⟨gapFits, sampled, pulseFits⟩ last, if_pos last, if_pos last]
    · rw [receiveSymbol_next (p := (gap, width)) hp he ⟨gapFits, sampled, pulseFits⟩ last, if_neg last, if_neg last, hp]
  case longPulse =>
    obtain ⟨w, rfl⟩ := Nat.exists_eq_add_of_le long
    have samples : symbolSamples gap (s.tMeasure.toNat + 2 + w) =
        (List.replicate gap .low ++ List.replicate (s.tMeasure.toNat + 2) .high) ++
          (List.replicate w .high ++ [.low, .low]) := by
      rw [symbolSamples, List.replicate_add, List.append_assoc, List.append_assoc]
    rw [receiveSymbol_of_append samples, runSamples_long_pulse hp he gapFits, List.length_append, List.length_replicate,
      List.length_replicate]
  case longGap =>
    obtain ⟨g, rfl⟩ := Nat.exists_eq_add_of_le long
    have samples : symbolSamples (s.tBitStart.toNat + 2 + g) width =
        List.replicate (s.tBitStart.toNat + 2) .low ++ symbolSamples g width := by
      rw [symbolSamples, List.replicate_add, List.append_assoc, ← symbolSamples]
    rw [receiveSymbol_of_append samples, runSamples_long_gap hp he, List.length_replicate]

theorem receiveSymbols_cons (p : Nat × Nat) (symbols : List (Nat × Nat)) (s : State) :
    receiveSymbols (p :: symbols) s = receiveSymbols symbols (receiveSymbol p.1 p.2 s) := rfl

/-- The frame `f` with the bits of a list of symbols packed from position `i` on. -/
def packSymbols (thresh : Ticks) : Nat → List (Nat × Nat) → Frame → Frame
  | _, [], f => f
  | i, p :: symbols, f =>
    packSymbols thresh (i + 1) symbols (pack f (Fin.ofNat 40 i) (decide (thresh.toNat < p.2)))

/-- Packing from position `i` on leaves the positions below it, and sets the others by the widths. -/
theorem frameBit_packSymbols (thresh : Ticks) (symbols : List (Nat × Nat)) (i : Nat) (f : Frame)
    (fits : i + symbols.length ≤ 40) (j : Fin 40) :
    (j.val < i → frameBit (packSymbols thresh i symbols f) j = frameBit f j) ∧
      ∀ p, i ≤ j.val → symbols[j.val - i]? = some p →
        frameBit (packSymbols thresh i symbols f) j = decide (thresh.toNat < p.2) := by
  induction symbols generalizing i f with
  | nil => exact ⟨fun _ => rfl, fun p _ h => by simp at h⟩
  | cons q symbols ih =>
    rw [List.length_cons] at fits
    obtain ⟨below, above⟩ := ih (i + 1) (pack f (Fin.ofNat 40 i) (decide (thresh.toNat < q.2))) (by omega)
    have position : (Fin.ofNat 40 i).val = i := Nat.mod_eq_of_lt (by omega)
    refine ⟨fun hj => ?below, fun p hi hp => ?here⟩
    case below =>
      refine (below (by omega)).trans (frameBit_pack_other f _ fun same => ?_)
      rw [same, position] at hj
      exact Nat.lt_irrefl i hj
    case here =>
      rcases Nat.eq_or_lt_of_le hi with same | later
      · have head : j = Fin.ofNat 40 i := Fin.ext (same.symm.trans position.symm)
        rw [same, Nat.sub_self, List.getElem?_cons_zero, Option.some.injEq] at hp
        rw [packSymbols, below (by omega), head, frameBit_pack_same, hp]
      · rw [show j.val - i = j.val - (i + 1) + 1 by omega, List.getElem?_cons_succ] at hp
        exact above p later hp

theorem fin40_add_one_val {i : Fin 40} (h : i ≠ 39) : (i + 1).val = i.val + 1 :=
  Fin.val_add_one_of_lt (Fin.lt_last_iff_ne_last.mpr h)

/-- Symbols up to the frame's last bit bring the sampler to VALIDATE with their bits packed (42_bit_sampler.md R106). -/
theorem receiveSymbols_to_validate (symbols : List (Nat × Nat)) {s : State} {i : Nat} (hp : s.pc = .bitStart)
    (he : s.elapsed = 0#32) (index : s.bitIdx.val = i) (more : i < 40) (len : i + symbols.length = 40)
    (budgets : ∀ p ∈ symbols, WithinBudgets s p) :
    receiveSymbols symbols s =
      { s with x := packSymbols s.thresh i symbols s.x, bitIdx := 39, pc := .validate, lineIn := .low } := by
  induction symbols generalizing s i with
  | nil => exact absurd len (Nat.ne_of_lt more)
  | cons p symbols ih =>
    have fits := budgets p List.mem_cons_self
    have position : Fin.ofNat 40 i = s.bitIdx := Fin.ext ((Nat.mod_eq_of_lt more).trans index.symm)
    rw [List.length_cons] at len
    rw [receiveSymbols_cons, packSymbols, position]
    by_cases last : s.bitIdx = 39
    · have none : symbols = [] := List.eq_nil_of_length_eq_zero (by rw [last] at index; omega)
      rw [receiveSymbol_last hp he fits last, none]
      rfl
    · have next : (s.bitIdx + 1).val = i + 1 := by rw [fin40_add_one_val last, index]
      rw [receiveSymbol_next hp he fits last]
      exact ih hp he next (next ▸ (s.bitIdx + 1).isLt) (by omega) fun q hq => budgets q (List.mem_cons_of_mem p hq)

theorem frameOfWidths_packSymbols {thresh : Ticks} {symbols : List (Nat × Nat)} {f : Frame}
    (len : symbols.length = 40) : FrameOfWidths thresh symbols (packSymbols thresh 0 symbols f) := by
  intro i p hp
  obtain ⟨_, packed⟩ := frameBit_packSymbols thresh symbols 0 f (by omega) i
  exact packed p (Nat.zero_le _) hp

/-- Settles O44: forty symbols from position 0 pack the whole frame. -/
theorem fortySymbolsMakeOneFrame : Obligations.FortySymbolsMakeOneFrame := by
  unfold Obligations.FortySymbolsMakeOneFrame
  intro s symbols hp hi he _ len budgets
  exact ⟨packSymbols s.thresh 0 symbols s.x, frameOfWidths_packSymbols len,
    receiveSymbols_to_validate symbols hp he (i := 0) (by rw [hi]; rfl) (by decide) (by omega) budgets⟩

/-! A whole attempt. -/

/-- Symbols one after another are the run over all their samples. -/
theorem runSamples_flatMap_symbolSamples (symbols : List (Nat × Nat)) (s : State) :
    runSamples (symbols.flatMap fun w => symbolSamples w.1 w.2) s = receiveSymbols symbols s := by
  induction symbols generalizing s with
  | nil => rfl
  | cons p symbols ih =>
    rw [List.flatMap_cons, runSamples_append, ih]
    rfl

/-- An attempt begun in `s`, at its entry of the phase `p` after the line is released, with `m` as the last sample
(41_frame_acquirer.md R91 to R95). -/
def releasedEntry (s : State) (p : Phase) (m : Level) : State :=
  { startBEntry s m with lineOe := false, pc := p }

/-- The start signal and the settling delay (41_frame_acquirer.md R90 to R92). -/
theorem runSamples_drive {s : State} {drive : List Level}
    (len : drive.length = max s.tStartA.toNat 1 + max s.tStartB.toNat 1 + max s.tSettle.toNat 1) :
    ∃ m, runSamples drive (beginAttempt s) = releasedEntry s .ackA m := by
  obtain ⟨m, rest, length, run⟩ := runSamples_beginAttempt_cut (s := s) (ls := drive) (by omega)
  obtain ⟨low, settling, rfl, lenB⟩ : ∃ low settling, rest = low ++ settling ∧ low.length = max s.tStartB.toNat 1 :=
    ⟨rest.take (max s.tStartB.toNat 1), rest.drop (max s.tStartB.toNat 1), (List.take_append_drop _ _).symm,
      List.length_take_of_le (by omega)⟩
  rw [List.length_append] at length
  have settles : HoldPhase .settle .settle (fun s => s.tSettle) (fun t => { t with pc := .ackA }) := settleDelays
  refine ⟨lastSample settling (lastSample low m), ?_⟩
  rw [run, runSamples_append, holdPhase_startB.expires (s := startBEntry s m) rfl rfl lenB]
  exact settles.expires (s := releasedEntry s .settle (lastSample low m)) rfl rfl
    (show settling.length = max s.tSettle.toNat 1 by omega)

section Acknowledgement

variable {s : State} {m : Level} {n : Nat} (inTime : n ≤ s.tAck.toNat + 1)

include inTime

/-- The sensor's Low within `T_ACK` (41_frame_acquirer.md R93). -/
theorem runSamples_ackA :
    engineTick .low (runSamples (List.replicate n .high) (releasedEntry s .ackA m)) = releasedEntry s .ackB .low := by
  have wait : WaitPhase .ackA .ackA .low (fun s => s.tAck) 0 .sensorUnresponsive
      (fun _ t => { t with elapsed := 0#32, pc := .ackB }) := ackARequiresLow
  exact wait.ends (s := releasedEntry s .ackA m) rfl rfl (by decide) ((Nat.zero_add n).trans_le inTime)

/-- The sensor's High within `T_ACK` (41_frame_acquirer.md R94). -/
theorem runSamples_ackB :
    engineTick .high (runSamples (List.replicate n .low) (releasedEntry s .ackB m)) = releasedEntry s .ackC .high := by
  have wait : WaitPhase .ackB .ackB .high (fun s => s.tAck) 0 .sensorUnresponsive
      (fun _ t => { t with elapsed := 0#32, pc := .ackC }) := ackBRequiresHigh
  exact wait.ends (s := releasedEntry s .ackB m) rfl rfl (by decide) ((Nat.zero_add n).trans_le inTime)

/-- The sensor's second Low within `T_ACK` (41_frame_acquirer.md R95). -/
theorem runSamples_ackC :
    engineTick .low (runSamples (List.replicate n .high) (releasedEntry s .ackC m)) =
      releasedEntry s .bitStart .low := by
  obtain ⟨_, wait⟩ := ackCRequiresLowAgain
  exact wait.ends (s := releasedEntry s .ackC m) rfl rfl (by decide) ((Nat.zero_add n).trans_le inTime)

end Acknowledgement

/-- The start signal is three holds, the acknowledgement three waits (41_frame_acquirer.md R90 to R95). -/
theorem runSamples_to_bitStart {s : State} {drive : List Level} {a p q : Nat}
    (len : drive.length = max s.tStartA.toNat 1 + max s.tStartB.toNat 1 + max s.tSettle.toNat 1)
    (ha : a ≤ s.tAck.toNat + 1) (hp : p ≤ s.tAck.toNat + 1) (hq : q ≤ s.tAck.toNat + 1) :
    runSamples [.low] (runSamples (List.replicate (q + 1) .high) (runSamples (List.replicate (p + 1) .low)
      (runSamples (List.replicate a .high) (runSamples drive (beginAttempt s))))) = releasedEntry s .bitStart .low := by
  obtain ⟨m, driven⟩ := runSamples_drive len
  rw [driven, List.replicate_succ, List.replicate_succ, runSamples_cons, runSamples_cons, runSamples_cons,
    runSamples_ackA ha, runSamples_ackB hp, runSamples_ackC hq, runSamples_nil]

/-- Settles O45: the engine comes to BIT_START, the symbols make one frame, and the last tick is its validation. -/
theorem wellFormedAttemptDecodesItsPulses : Obligations.WellFormedAttemptDecodesItsPulses := by
  unfold Obligations.WellFormedAttemptDecodesItsPulses
  intro s drive a p q symbols last idle driveLen ha hp1 hp hq1 hq len budgets
  obtain ⟨p, rfl⟩ := Nat.exists_eq_add_of_le' hp1
  obtain ⟨q, rfl⟩ := Nat.exists_eq_add_of_le' hq1
  have waited := runSamples_to_bitStart driveLen ha (Nat.le_of_succ_le_succ hp) (Nat.le_of_succ_le_succ hq)
  obtain ⟨f, frame, received⟩ :=
    fortySymbolsMakeOneFrame (releasedEntry s .bitStart .low) symbols rfl rfl rfl rfl len budgets
  simp only [startCommand_idle idle, runSamples_append, runSamples_flatMap_symbolSamples, waited, received]
  refine ⟨f, _, frame, trivial, rfl, fun agrees => ?success, fun differs => ?mismatch⟩
  all_goals rw [runSamples_cons, runSamples_nil, engineTick, tickPhase_validate _ (by rfl)]
  case success =>
    rw [tickValidate_success (by exact agrees.symm)]
    exact ⟨rfl, rfl, rfl, rfl, rfl, rfl⟩
  case mismatch =>
    rw [tickValidate_mismatch (by exact Ne.symm differs)]
    exact ⟨rfl, rfl, rfl, rfl, rfl, rfl, rfl⟩

end Sys2Proof.Machine

end

section

/-! How long an attempt lasts (70_reset_and_hazards.md R195): a count of the ticks left that every tick of an attempt
lowers; and the retries of a silent line (44_retry_controller.md R121). -/

namespace Sys2Proof.Machine

/-- The ticks a hold phase has left (40_levelwaiter.md R81). -/
def holdLeft (time : Ticks) (elapsed : Word) : Nat := time.toNat - (elapsed + 1#32).toNat + 1

/-- The ticks a wait phase has left at most (40_levelwaiter.md R80). -/
def waitLeft (timeout : Ticks) (elapsed : Word) : Nat := timeout.toNat + 1 - elapsed.toNat + 1

/-- A hold takes `max(T, 1)` ticks from its entry. -/
theorem holdLeft_zero (time : Ticks) : holdLeft time 0#32 = max time.toNat 1 := by
  have one : (0#32 + 1#32).toNat = 1 := rfl
  rw [holdLeft, one]
  omega

theorem waitLeft_zero (timeout : Ticks) : waitLeft timeout 0#32 = timeout.toNat + 2 := rfl

/-- BIT_MEASURE is entered with one sample counted. -/
theorem waitLeft_one (timeout : Ticks) : waitLeft timeout 1#32 = timeout.toNat + 1 := rfl

theorem holdLeft_lt {time : Ticks} {elapsed : Word} (early : (elapsed + 1#32).toNat < time.toNat) :
    holdLeft time (elapsed + 1#32) < holdLeft time elapsed := by
  have small : time.toNat < 2 ^ 24 := time.isLt
  have next : (elapsed + 1#32 + 1#32).toNat = (elapsed + 1#32).toNat + 1 := add_one_toNat (by omega)
  unfold holdLeft
  omega

theorem waitLeft_lt {timeout : Ticks} {elapsed : Word} (inTime : elapsed.toNat ≤ timeout.toNat) :
    waitLeft timeout (elapsed + 1#32) < waitLeft timeout elapsed := by
  have small : timeout.toNat < 2 ^ 24 := timeout.isLt
  have next : (elapsed + 1#32).toNat = elapsed.toNat + 1 := add_one_toNat (by omega)
  unfold waitLeft
  omega

/-- The ticks of one bit at most (70_reset_and_hazards.md R195). -/
def bitBound (s : State) : Nat := (s.tBitStart.toNat + 2) + (s.tMeasure.toNat + 1) + (s.tBitEnd.toNat + 2)

/-- The ticks of `n` bits and the validation at most. -/
def bitsBound (s : State) (n : Nat) : Nat := n * bitBound s + 1

/-- The ticks of `n` waits for the acknowledgement, of all bits and the validation at most. -/
def ackBound (s : State) (n : Nat) : Nat := n * (s.tAck.toNat + 2) + bitsBound s 40

/-- The ticks a phase of an attempt has left at most. -/
def phaseLeft (s : State) : Phase → Nat
  | .startA => holdLeft s.tStartA s.elapsed
  | .startB => holdLeft s.tStartB s.elapsed
  | .settle => holdLeft s.tSettle s.elapsed
  | .ackA | .ackB | .ackC => waitLeft s.tAck s.elapsed
  | .bitStart => waitLeft s.tBitStart s.elapsed
  | .bitMeasure => waitLeft s.tMeasure s.elapsed
  | .bitEnd => waitLeft s.tBitEnd s.elapsed
  | .validate => 1
  | .idle | .backoff => 0

/-- The ticks of an attempt after one of its phases at most (70_reset_and_hazards.md R195). -/
def laterLeft (s : State) : Phase → Nat
  | .startA => max s.tStartB.toNat 1 + (max s.tSettle.toNat 1 + ackBound s 3)
  | .startB => max s.tSettle.toNat 1 + ackBound s 3
  | .settle => ackBound s 3
  | .ackA => ackBound s 2
  | .ackB => ackBound s 1
  | .ackC => ackBound s 0
  | .bitStart => s.tMeasure.toNat + 1 + (s.tBitEnd.toNat + 2 + bitsBound s (39 - s.bitIdx.val))
  | .bitMeasure => s.tBitEnd.toNat + 2 + bitsBound s (39 - s.bitIdx.val)
  | .bitEnd => bitsBound s (39 - s.bitIdx.val)
  | .validate | .idle | .backoff => 0

/-- The ticks an attempt has left at most. -/
def ticksLeft (s : State) : Nat := phaseLeft s s.pc + laterLeft s s.pc

theorem ticksLeft_setElapsed {s : State} {p : Phase} (h : s.pc = p) (e : Word) :
    ticksLeft { s with elapsed := e } = phaseLeft { s with elapsed := e } p + laterLeft s p := by
  subst h
  rfl

/-- One more wait for the acknowledgement. -/
theorem waitLeft_add_ackBound (s : State) (n : Nat) : waitLeft s.tAck 0#32 + ackBound s n = ackBound s (n + 1) := by
  rw [waitLeft_zero, ackBound, ackBound, Nat.succ_mul]
  omega

theorem ticksLeft_beginAttempt (s : State) : ticksLeft (beginAttempt s) = attemptBound s := by
  show holdLeft s.tStartA 0#32 + laterLeft s .startA = _
  rw [holdLeft_zero, laterLeft]
  simp only [ackBound, bitsBound, bitBound, attemptBound]
  omega

/-- At the entry of BIT_START as many bits are to come as the index says. -/
theorem ticksLeft_bitStart_entry {s : State} (hp : s.pc = .bitStart) (he : s.elapsed = 0#32) :
    ticksLeft s = bitsBound s (40 - s.bitIdx.val) := by
  have bits : 40 - s.bitIdx.val = 39 - s.bitIdx.val + 1 := by omega
  simp only [ticksLeft, phaseLeft, laterLeft, hp, he, waitLeft_zero, bits, bitsBound, Nat.succ_mul]
  unfold bitBound
  omega

theorem ticksLeft_pos {s : State} (hp : attemptPhase s.pc) : 0 < ticksLeft s := by
  obtain ⟨notIdle, notBackoff⟩ := hp
  refine Nat.add_pos_left ?_ _
  unfold phaseLeft holdLeft waitLeft
  split
  case h_11 h => exact absurd h notIdle
  case h_12 h => exact absurd h notBackoff
  all_goals omega

/-- An attempt's end (44_retry_controller.md R115). -/
abbrev AttemptEnded (s : State) : Prop := s.rstate = .success ∨ s.rstate = .failure

/-- `t` is the end of the attempt that runs in `s`, or is nearer to it. -/
def Nearer (s t : State) : Prop := AttemptEnded t ∨ attemptPhase t.pc ∧ ticksLeft t < ticksLeft s

section Progress

variable {target : Level} {t : Ticks} {r : Reason} {f : Word → State → State} {g : State → State} {s : State}
  {later : Nat}

/-- A hold brings the end nearer, if the phases after it have no more than `later` ticks left. -/
theorem Nearer.of_hold (hp : attemptPhase s.pc)
    (left : ∀ e, ticksLeft { s with elapsed := e } = holdLeft t e + later)
    (going : attemptPhase (g { s with elapsed := 0#32 }).pc)
    (fewer : ticksLeft (g { s with elapsed := 0#32 }) ≤ later) : Nearer s (holdPhase t g s) := by
  have now : ticksLeft s = holdLeft t s.elapsed + later := left s.elapsed
  rcases holdPhase_cases (t := t) (g := g) (s := s) with ⟨_, k⟩ | ⟨early, k⟩ <;> rw [k]
  · have positive : 0 < holdLeft t s.elapsed := Nat.succ_pos _
    exact .inr ⟨going, by omega⟩
  · have next : ticksLeft (countTick s) = holdLeft t (s.elapsed + 1#32) + later := left (s.elapsed + 1#32)
    exact .inr ⟨hp, by rw [next, now]; exact Nat.add_lt_add_right (holdLeft_lt early) later⟩

/-- A wait brings the end nearer, if the phases after it have no more than `later` ticks left. -/
theorem Nearer.of_wait (hp : attemptPhase s.pc)
    (left : ∀ e, ticksLeft { s with elapsed := e } = waitLeft t e + later)
    (going : attemptPhase (f s.elapsed s).pc) (fewer : ticksLeft (f s.elapsed s) ≤ later) :
    Nearer s (waitPhase target t r f s) := by
  have now : ticksLeft s = waitLeft t s.elapsed + later := left s.elapsed
  rcases waitPhase_cases (target := target) (t := t) (r := r) (f := f) (s := s) with
    ⟨_, k⟩ | ⟨_, _, k⟩ | ⟨_, inTime, k⟩ <;> rw [k]
  · have positive : 0 < waitLeft t s.elapsed := Nat.succ_pos _
    exact .inr ⟨going, by omega⟩
  · exact .inl (.inr rfl)
  · have next : ticksLeft (countTick s) = waitLeft t (s.elapsed + 1#32) + later := left (s.elapsed + 1#32)
    exact .inr ⟨hp, by rw [next, now]; exact Nat.add_lt_add_right (waitLeft_lt inTime) later⟩

theorem endBit_attemptPhase (s : State) : attemptPhase (endBit s).pc := by
  unfold endBit
  split
  · exact attempt_of (p := .validate) rfl (by decide)
  · exact attempt_of (p := .bitStart) rfl (by decide)

/-- After a bit come the later ones, or the validation (42_bit_sampler.md R102). -/
theorem ticksLeft_endBit (s : State) : ticksLeft (endBit s) ≤ bitsBound s (39 - s.bitIdx.val) := by
  by_cases last : s.bitIdx = 39
  · rw [endBit_last last]
    exact Nat.succ_le_succ (Nat.zero_le _)
  · rw [endBit_next last, ticksLeft_bitStart_entry rfl rfl]
    show bitsBound s (40 - (s.bitIdx + 1).val) ≤ _
    rw [fin40_add_one_val last]
    exact le_of_eq (congrArg (bitsBound s) (by omega))

/-- Every tick of an attempt ends it or brings its end nearer. -/
theorem tickPhase_nearer (hp : attemptPhase s.pc) : Nearer s (tickPhase s) := by
  refine tickPhase_elim (idle := fun h => absurd h hp.1) (startA := fun h => ?startA) (startB := fun h => ?startB)
    (settle := fun h => ?settle) (ackA := fun h => ?ackA) (ackB := fun h => ?ackB) (ackC := fun h => ?ackC)
    (bitStart := fun h => ?bitStart) (bitMeasure := fun h => ?bitMeasure) (bitEnd := fun h => ?bitEnd)
    (validate := fun _ => ?validate) (backoff := fun h => absurd h hp.2)
  case startA =>
    exact .of_hold (later := laterLeft s .startA) hp (ticksLeft_setElapsed h)
      (attempt_of (p := .startB) rfl (by decide)) (le_of_eq (congrArg (· + laterLeft s .startB) (holdLeft_zero _)))
  case startB =>
    exact .of_hold (later := laterLeft s .startB) hp (ticksLeft_setElapsed h)
      (attempt_of (p := .settle) rfl (by decide)) (le_of_eq (congrArg (· + laterLeft s .settle) (holdLeft_zero _)))
  case settle =>
    exact .of_hold (later := laterLeft s .settle) hp (ticksLeft_setElapsed h)
      (attempt_of (p := .ackA) rfl (by decide)) (le_of_eq (waitLeft_add_ackBound s 2))
  case ackA =>
    exact .of_wait (later := laterLeft s .ackA) hp (ticksLeft_setElapsed h)
      (attempt_of (p := .ackB) rfl (by decide)) (le_of_eq (waitLeft_add_ackBound s 1))
  case ackB =>
    exact .of_wait (later := laterLeft s .ackB) hp (ticksLeft_setElapsed h)
      (attempt_of (p := .ackC) rfl (by decide)) (le_of_eq (waitLeft_add_ackBound s 0))
  case ackC =>
    refine .of_wait (later := laterLeft s .ackC) hp (ticksLeft_setElapsed h)
      (attempt_of (p := .bitStart) rfl (by decide)) ?_
    rw [ticksLeft_bitStart_entry rfl rfl, laterLeft, ackBound, Nat.zero_mul, Nat.zero_add]
    exact Nat.succ_le_succ (Nat.mul_le_mul_right _ (Nat.sub_le _ _))
  case bitStart =>
    exact .of_wait (later := laterLeft s .bitStart) hp (ticksLeft_setElapsed h)
      (attempt_of (p := .bitMeasure) rfl (by decide))
      (le_of_eq (congrArg (· + laterLeft s .bitMeasure) (waitLeft_one s.tMeasure)))
  case bitMeasure =>
    exact .of_wait (later := laterLeft s .bitMeasure) hp (ticksLeft_setElapsed h)
      (attempt_of (p := .bitEnd) rfl (by decide))
      (le_of_eq (congrArg (· + laterLeft s .bitEnd) (waitLeft_zero s.tBitEnd)))
  case bitEnd =>
    exact .of_wait (later := laterLeft s .bitEnd) hp (ticksLeft_setElapsed h)
      (endBit_attemptPhase s) (ticksLeft_endBit s)
  case validate =>
    unfold tickValidate
    split
    · exact .inl (.inl rfl)
    · exact .inl (.inr rfl)

end Progress

/-- An attempt ends among as many ticks as it has left at most. -/
theorem exists_attemptEnded (ls : List Level) {s : State} (hp : attemptPhase s.pc) (long : ticksLeft s ≤ ls.length) :
    ∃ k ≤ ls.length, AttemptEnded (runSamples (ls.take k) s) := by
  induction ls generalizing s with
  | nil => exact absurd long (Nat.not_le.mpr (ticksLeft_pos hp))
  | cons l ls ih =>
    have near : Nearer (sampleLine l s) (engineTick l s) := tickPhase_nearer (s := sampleLine l s) hp
    rcases near with finished | ⟨going, less⟩
    · exact ⟨1, Nat.succ_le_succ (Nat.zero_le _), finished⟩
    · have fewer : ticksLeft (engineTick l s) < ticksLeft s := less
      obtain ⟨k, hk, finished⟩ := ih going (Nat.le_of_lt_succ (fewer.trans_le long))
      exact ⟨k + 1, Nat.succ_le_succ hk, finished⟩

/-- What stands in RSTATE through a hold and through `n` ticks after it, stands through `max(T, 1) + n` ticks from the
entry of the hold. -/
theorem HoldPhase.rstate_through {i : Instr} {p : Phase} {time : State → Ticks} {expired : State → State}
    (h : HoldPhase i p time expired) {s : State} {ls : List Level} {n : Nat} (hp : s.pc = p) (he : s.elapsed = 0#32)
    (short : ls.length ≤ max (time s).toNat 1 + n)
    (after : ∀ m (rest : List Level), rest.length ≤ n →
      (runSamples rest (expired { s with elapsed := 0#32, lineIn := m })).rstate = s.rstate) :
    (runSamples ls s).rstate = s.rstate := by
  rcases Nat.lt_or_ge ls.length (max (time s).toNat 1) with early | long
  · rw [h.counts hp he early]
    rfl
  · conv_lhs => rw [← List.take_append_drop (max (time s).toNat 1) ls]
    rw [runSamples_append, h.expires hp he (List.length_take_of_le long)]
    exact after _ _ (by rw [List.length_drop]; omega)

/-- Through the start signal and the settling delay no attempt ends (41_frame_acquirer.md R90 to R92). -/
theorem runSamples_beginAttempt_acquiring {s : State} {ls : List Level}
    (short : ls.length ≤ max s.tStartA.toNat 1 + (max s.tStartB.toNat 1 + max s.tSettle.toNat 1)) :
    (runSamples ls (beginAttempt s)).rstate = .acquiring := by
  have settle : HoldPhase .settle .settle (fun s => s.tSettle) (fun t => { t with pc := .ackA }) := settleDelays
  refine holdPhase_startA.rstate_through rfl rfl short fun m rest shortB => ?_
  refine holdPhase_startB.rstate_through rfl rfl shortB fun m rest shortSettle => ?_
  refine settle.rstate_through (n := 0) rfl rfl shortSettle fun m rest none => ?_
  rw [List.eq_nil_of_length_eq_zero (Nat.le_zero.mp none)]
  rfl

/-- Settles O59: an accepted START has the bound's ticks left, which every tick lowers; and the three holds end no
attempt. -/
theorem everyAttemptEndsWithinBound : Obligations.EveryAttemptEndsWithinBound := by
  unfold Obligations.EveryAttemptEndsWithinBound
  intro s ls idle
  rw [startCommand_idle idle]
  refine ⟨fun len => ?ends, fun short => runSamples_beginAttempt_acquiring (by omega)⟩
  exact exists_attemptEnded ls (attempt_of (p := .startA) rfl (by decide)) (by rw [ticksLeft_beginAttempt, len])

/-! A line that never answers. -/

/-- The phases of an engine whose line stays High. -/
abbrev SilentPhase (p : Phase) : Prop := p ∈ [Phase.startA, .startB, .settle, .ackA, .backoff]

theorem engineTick_autoRetry (l : Level) (s : State) : (engineTick l s).autoRetry = s.autoRetry := by
  have config := congrArg State.autoRetry (engineTick_config l s)
  exact config.symm

/-- Under automatic retry a High sample leads from these phases to these phases (44_retry_controller.md R121). -/
theorem TickOutcome.silentPhase {s t : State} (h : TickOutcome s t) (high : s.lineIn = .high)
    (retry : s.autoRetry = true) (silent : SilentPhase s.pc) : SilentPhase t.pc := by
  cases h with
  | idles | counts => exact silent
  | drivesOpposite => exact (by decide : SilentPhase .startB)
  | releases => exact (by decide : SilentPhase .settle)
  | settles => exact (by decide : SilentPhase .ackA)
  | retries => exact (by decide : SilentPhase .startA)
  | ackASeen _ low => exact absurd (high.symm.trans low) (by decide)
  | timesOut => rw [fail_pc, if_pos retry]; decide
  | ackBSeen hp | ackCSeen hp | bitRises hp | bitMeasured hp | bitEnds hp | validates hp | mismatches hp =>
    rw [hp] at silent
    exact absurd silent (by decide)

/-- A state of an engine that retries on a silent line. -/
structure Silent (s : State) : Prop where
  inv : Inv s
  retry : s.autoRetry = true
  phase : SilentPhase s.pc

theorem Silent.engineTick {s : State} (h : Silent s) : Silent (engineTick .high s) :=
  ⟨h.inv.engineTick .high, (engineTick_autoRetry .high s).trans h.retry,
    (tickPhase_outcome (sampleLine .high s)).silentPhase rfl h.retry h.phase⟩

theorem Silent.runSamples {s : State} (h : Silent s) (n : Nat) : Silent (runSamples (List.replicate n .high) s) := by
  induction n generalizing s with
  | zero => exact h
  | succ n ih => exact ih h.engineTick

theorem Silent.beginAttempt {s : State} (retry : s.autoRetry = true) : Silent (beginAttempt s) :=
  ⟨Inv.beginAttempt s, retry, by rw [beginAttempt_pc]; decide⟩

/-- An attempt on a silent line ends, and it ends in BACKOFF. -/
theorem Silent.reaches_backoff {s : State} (h : Silent s) :
    ∃ k, (Machine.runSamples (List.replicate k .high) s).pc = .backoff := by
  have attempt_or_backoff : ∀ p, SilentPhase p → attemptPhase p ∨ p = .backoff := by
    intro p
    cases p <;> decide
  rcases attempt_or_backoff s.pc h.phase with going | waits
  · obtain ⟨k, _, finished⟩ := exists_attemptEnded (List.replicate (ticksLeft s) .high) going (by simp)
    rw [List.take_replicate] at finished
    have later := h.runSamples (min k (ticksLeft s))
    refine ⟨min k (ticksLeft s), (attempt_or_backoff _ later.phase).resolve_left fun going => ?_⟩
    rw [AttemptEnded, later.inv.acquiring.mpr going] at finished
    exact absurd finished (by decide)
  · exact ⟨0, waits⟩

/-- BACKOFF expires (44_retry_controller.md R119). -/
theorem backoff_expires {s : State} (hp : s.pc = .backoff) :
    ∃ k, (runSamples (List.replicate k .high) s).pc = .backoff ∧
      (runSamples (List.replicate (k + 1) .high) s).pc = .startA := by
  induction left : holdLeft s.tBackoff s.elapsed using Nat.strong_induction_on generalizing s with
  | _ n ih =>
    have tick : engineTick .high s = holdPhase s.tBackoff beginAttempt (sampleLine .high s) :=
      tickPhase_backoff (sampleLine .high s) hp
    rcases holdPhase_cases (t := s.tBackoff) (g := beginAttempt) (s := sampleLine .high s) with
      ⟨_, k⟩ | ⟨early, k⟩ <;> rw [k] at tick
    · refine ⟨0, hp, ?_⟩
      rw [List.replicate_succ, runSamples_cons, tick]
      rfl
    · obtain ⟨m, waits, begins⟩ :=
        ih _ (left ▸ holdLeft_lt early) (s := engineTick .high s) (tick ▸ hp) (by rw [tick]; rfl)
      exact ⟨m + 1, waits, begins⟩

/-- Settles O60: the phases of a silent line are kept; the attempt that runs ends in BACKOFF, which expires. -/
theorem silentLineRetriesForever : Obligations.SilentLineRetriesForever := by
  unfold Obligations.SilentLineRetriesForever
  intro s n idle retry
  rw [startCommand_idle idle]
  have now := (Silent.beginAttempt retry).runSamples n
  obtain ⟨k, waits⟩ := now.reaches_backoff
  obtain ⟨j, still, begins⟩ := backoff_expires waits
  refine ⟨now.phase, n + k + j, by omega, ?_, ?_⟩
  · rw [List.replicate_add, List.replicate_add, runSamples_append, runSamples_append]
    exact still
  · rw [Nat.add_assoc (n + k), List.replicate_add, List.replicate_add, runSamples_append, runSamples_append]
    exact begins

end Sys2Proof.Machine

end

section

/-! What moves the phase, RSTATE, the flags and the result (44_retry_controller.md R115, R122; 60_exceptions.md R164;
20_memory.md R50): the outcomes of a tick, and what the host's accesses reach. -/

namespace Sys2Proof.Machine

section Tick

variable {s t : State}

/-- A tick step has an outcome of a tick, on the state with its sample (00_scope.md R6). -/
theorem step_tickOutcome (tick : s.agenda = [] ∨ ∃ l rest, s.agenda = .tick l :: rest) (h : step s = .next t) :
    ∃ l rest n, TickOutcome { s with lineIn := l, agenda := rest, freeIdx := n } t := by
  rcases tick with ha | ⟨l, rest, ha⟩
  · rw [step_free ha] at h
    cases h
    exact ⟨_, _, _, tickPhase_outcome (takeFreeSample s)⟩
  · rw [step_tick ha] at h
    cases h
    exact ⟨l, rest, s.freeIdx, tickPhase_outcome (sampleLine l { s with agenda := rest })⟩

/-- What a step other than a symbol can have done, a tick by its outcome (00_scope.md R7). -/
theorem step_cases_of_no_symbol (h : step s = .next t)
    (noSymbol : ∀ b gap width rest, s.agenda ≠ .symbol b gap width :: rest) :
    ((s.agenda = [] ∨ ∃ l rest, s.agenda = .tick l :: rest) ∧
      ∃ l rest n, TickOutcome { s with lineIn := l, agenda := rest, freeIdx := n } t) ∨
    (∃ v rest, t = answerRead v { s with agenda := rest }) ∨
    (∃ addr v rest, s.agenda = .write addr 4 v :: rest ∧ t = writeRegister addr v { s with agenda := rest }) ∨
    (∃ rest, s.agenda = .reset :: rest ∧ t = applyReset { s with agenda := rest }) := by
  rcases step_cases h with ⟨ha, _⟩ | ⟨l, rest, ha, _⟩ | ⟨addr, n, rest, _, _, rfl⟩ |
    ⟨addr, n, v, rest, ha, ⟨rfl, _, _⟩, rfl⟩ | ⟨b, gap, width, rest, ha, _⟩ | ⟨rest, ha, rfl⟩
  · exact .inl ⟨.inl ha, step_tickOutcome (.inl ha) h⟩
  · exact .inl ⟨.inr ⟨l, rest, ha⟩, step_tickOutcome (.inr ⟨l, rest, ha⟩) h⟩
  · exact .inr (.inl ⟨_, rest, rfl⟩)
  · exact .inr (.inr (.inl ⟨addr, v, rest, ha, rfl⟩))
  · exact absurd ha (noSymbol b gap width rest)
  · exact .inr (.inr (.inr ⟨rest, ha, rfl⟩))

theorem fail_pc_cases (r : Reason) (s : State) : (fail r s).pc = .idle ∨ (fail r s).pc = .backoff := by
  rw [fail_pc]
  split
  · exact .inr rfl
  · exact .inl rfl

/-! The phase graph. -/

/-- A tick may leave the phase, except in VALIDATE, which takes one tick (44_retry_controller.md R122). -/
theorem phaseEdge_self {p : Phase} (h : p ≠ .validate) : phaseEdge p p := by
  cases p with
  | validate => exact absurd rfl h
  | idle | startA | startB | settle | ackA | ackB | ackC | bitStart | bitMeasure | bitEnd | backoff => exact .inl rfl

/-- A failure is an edge from each phase that can fail (44_retry_controller.md R122). -/
theorem phaseEdge_failure {p q : Phase} (hp : waitPhaseOf p ∨ p = .validate) (hq : q = .idle ∨ q = .backoff) :
    phaseEdge p q := by
  rcases hp with (rfl | rfl | rfl | rfl | rfl | rfl) | rfl
  case inr => exact hq
  case inl.inr.inr.inr.inr.inr => exact .inr (.inr (.inr hq))
  all_goals exact .inr (.inr hq)

theorem phaseEdge_endBit (s : State) : phaseEdge .bitEnd (endBit s).pc := by
  unfold endBit
  split
  · exact .inr (.inr (.inl rfl))
  · exact .inr (.inl rfl)

/-- 44_retry_controller.md R122, for the outcomes of a tick. -/
theorem TickOutcome.phaseEdge (h : TickOutcome s t) : phaseEdge s.pc t.pc := by
  cases h with
  | idles hp => exact phaseEdge_self (by rw [hp]; decide)
  | counts _ hv => exact phaseEdge_self hv
  | drivesOpposite hp | releases hp | settles hp | retries hp => rw [hp]; exact .inr rfl
  | ackASeen hp | ackBSeen hp | ackCSeen hp | bitRises hp | bitMeasured hp => rw [hp]; exact .inr (.inl rfl)
  | bitEnds hp => rw [hp]; exact phaseEdge_endBit s
  | timesOut r hp => exact phaseEdge_failure (.inl hp) (fail_pc_cases r s)
  | validates hp => rw [hp]; exact .inl rfl
  | mismatches hp => exact phaseEdge_failure (.inr hp) (fail_pc_cases _ _)

theorem runSamples_path (ls : List Level) (s : State) :
    Relation.ReflTransGen phaseEdge s.pc (runSamples ls s).pc :=
  runSamples_keeps (P := fun u => Relation.ReflTransGen phaseEdge s.pc u.pc)
    (fun l u path => path.tail (tickPhase_outcome (sampleLine l u)).phaseEdge) ls .refl

/-- A host access moves `pc` only by a START in IDLE (44_retry_controller.md R122, R123). -/
theorem step_hostAccess_pc {e : Event} {rest : List Event} (ha : s.agenda = e :: rest) (host : hostAccess e)
    (h : step s = .next t) : t.pc = s.pc ∨ s.pc = .idle ∧ t.pc = .startA := by
  by_cases idle : s.pc = .idle
  · by_cases stays : t.pc = .idle
    · exact .inl (stays.trans idle.symm)
    · exact .inr ⟨idle, (step_leaves_idle h idle stays).1⟩
  · have same : t.attemptView.pc = s.attemptView.pc :=
      congrArg State.pc (step_hostAccess_attemptView ha host h idle)
    exact .inl same

theorem path_of_hostMove (h : t.pc = s.pc ∨ s.pc = .idle ∧ t.pc = .startA) :
    Relation.ReflTransGen phaseEdge s.pc t.pc := by
  rcases h with same | ⟨idle, started⟩
  · rw [same]
  · rw [idle, started]
    exact .single (.inr rfl)

end Tick

/-- Settles O49: each kind of step by its own lemma; a symbol is a run of ticks, each along an edge. -/
theorem phaseMovesOnlyAlongGraph : Obligations.PhaseMovesOnlyAlongGraph := by
  unfold Obligations.PhaseMovesOnlyAlongGraph
  intro s t h
  have tick (k : s.agenda = [] ∨ ∃ l rest, s.agenda = .tick l :: rest) : phaseEdge s.pc t.pc := by
    obtain ⟨l, rest, n, outcome⟩ := step_tickOutcome k h
    exact outcome.phaseEdge
  refine ⟨tick, fun e rest ha host => step_hostAccess_pc ha host h, fun rest ha => ?reset, fun noReset => ?path⟩
  case reset =>
    rw [step_reset ha] at h
    cases h
    rfl
  case path =>
    rcases step_cases h with ⟨ha, _⟩ | ⟨l, rest, ha, _⟩ | ⟨addr, n, rest, ha, port, _⟩ |
      ⟨addr, n, v, rest, ha, port, _⟩ | ⟨b, gap, width, rest, _, rfl⟩ | ⟨rest, ha, _⟩
    · exact .single (tick (.inl ha))
    · exact .single (tick (.inr ⟨l, rest, ha⟩))
    · exact path_of_hostMove (step_hostAccess_pc ha port h)
    · exact path_of_hostMove (step_hostAccess_pc ha port h)
    · exact runSamples_path (symbolSamples gap width) { s with agenda := rest }
    · exact absurd ha (noReset rest)

/-! The RetryController's table. -/

section Retry

variable {s t : State}

theorem fail_pc_by_autoRetry (r : Reason) (s : State) :
    (s.autoRetry = true → (fail r s).pc = .backoff) ∧ (s.autoRetry = false → (fail r s).pc = .idle) :=
  ⟨fun retry => if_pos retry, fun noRetry => if_neg (by rw [noRetry]; decide)⟩

/-- The phases that can fail (44_retry_controller.md R115). -/
abbrev MayFail (p : Phase) : Prop := p ∈ [Phase.ackA, .ackB, .ackC, .bitStart, .bitMeasure, .bitEnd, .validate]

theorem mayFail_of_waitPhase : ∀ {p : Phase}, waitPhaseOf p → MayFail p := by
  intro p
  cases p <;> decide

/-- A phase that can fail lies in an attempt, so RSTATE is Acquiring there (10_state.md R37 item 4). -/
theorem Inv.acquiring_of_mayFail (h : Inv s) (hp : MayFail s.pc) : s.rstate = .acquiring := by
  have inAttempt : ∀ p, MayFail p → attemptPhase p := by decide
  exact h.acquiring.mpr (inAttempt s.pc hp)

/-- What a tick makes of RSTATE (44_retry_controller.md R115): nothing, a success, a failure, the next attempt. -/
theorem TickOutcome.rstate_moves (h : TickOutcome s t) (inv : Inv s) :
    t.rstate = s.rstate ∨
    (s.rstate = .acquiring ∧ t.rstate = .success ∧ s.pc = .validate ∧ s.x.b4 = checksum s.x ∧ t.pc = .idle) ∨
    (s.rstate = .acquiring ∧ t.rstate = .failure ∧ t.reason ≠ .none ∧
      MayFail s.pc ∧ (s.autoRetry = true → t.pc = .backoff) ∧ (s.autoRetry = false → t.pc = .idle)) ∨
    (s.rstate = .failure ∧ s.pc = .backoff ∧ s.tBackoff.toNat ≤ s.elapsed.toNat + 1 ∧ t.rstate = .acquiring ∧
      t.pc = .startA) := by
  cases h with
  | idles | counts | drivesOpposite | releases | settles | ackASeen | ackBSeen | ackCSeen | bitRises | bitMeasured =>
    exact .inl rfl
  | bitEnds => exact .inl (endBit_rstate s)
  | validates hp agrees =>
    have acquiring := inv.acquiring_of_mayFail (by rw [hp]; decide)
    exact .inr (.inl ⟨acquiring, rfl, hp, agrees.symm, rfl⟩)
  | timesOut r hp hr =>
    have mayFail := mayFail_of_waitPhase hp
    exact .inr (.inr (.inl ⟨inv.acquiring_of_mayFail mayFail, rfl, hr, mayFail, fail_pc_by_autoRetry r s⟩))
  | mismatches hp =>
    have mayFail : MayFail s.pc := by rw [hp]; decide
    exact .inr (.inr (.inl ⟨inv.acquiring_of_mayFail mayFail, rfl, nofun, mayFail,
      fail_pc_by_autoRetry .checksumMismatch (recordChecksums s)⟩))
  | retries hp up =>
    obtain ⟨failed, _⟩ := inv.backoff hp
    have bound : s.elapsed.toNat ≤ 2 ^ 24 := inv.elapsed
    rw [add_one_toNat (by omega)] at up
    exact .inr (.inr (.inr ⟨failed, hp, up, rfl, rfl⟩))

/-- What a command makes of RSTATE (45_host_interface.md R132 to R134). -/
theorem commandWrite_rstate (v : Word) (s : State) :
    (commandWrite v s).rstate = s.rstate ∨
    (s.pc = .idle ∧ (commandWrite v s).rstate = .acquiring ∧ v.getLsbD 0 = true) ∨
    (s.pc = .idle ∧ (s.rstate = .success ∨ s.rstate = .failure) ∧ (commandWrite v s).rstate = .idle ∧
      v.getLsbD 0 = false ∧ v.getLsbD 1 = true) := by
  unfold commandWrite startCommand ackCommand
  split
  next start =>
    split
    next idle => exact .inr (.inl ⟨idle, rfl, start⟩)
    next busy => exact .inl rfl
  next noStart =>
    split
    next ack =>
      split
      next finished => exact .inr (.inr ⟨finished.1, finished.2, rfl, Bool.eq_false_of_not_eq_true noStart, ack⟩)
      next ignored => exact .inl rfl
    next nop => exact .inl rfl

/-- Only a write to `CMD` moves RSTATE (45_host_interface.md R131). -/
theorem writeRegister_rstate (addr : Nat) (v : Word) (s : State) :
    (writeRegister addr v s).rstate = s.rstate ∨ addr = 0x00 ∧ writeRegister addr v s = commandWrite v s := by
  rcases writeRegister_cases addr v s with ⟨ha, k⟩ | ⟨_, k⟩ | ⟨_, k⟩ | ⟨_, _, k⟩ | ⟨_, _, _, _, _, _, _, _, _, _, k⟩ | k
  · exact .inr ⟨ha, k⟩
  all_goals exact .inl ((congrArg State.rstate k).trans rfl)

end Retry

/-- Settles O50: a tick moves RSTATE by its outcome, a write by its command, a reset to Idle. -/
theorem retryStateTransitions : Obligations.RetryStateTransitions := by
  unfold Obligations.RetryStateTransitions
  intro s t inv h noSymbol
  rcases step_cases_of_no_symbol h noSymbol with ⟨_, l, rest, n, outcome⟩ | ⟨v, rest, rfl⟩ | ⟨addr, v, rest, ha, rfl⟩ |
    ⟨rest, ha, rfl⟩
  · have sampled : Inv { s with lineIn := l, agenda := rest, freeIdx := n } := inv.of_view rfl
    rcases outcome.rstate_moves sampled with same | success | failure | retry
    · exact .inr (.inl same)
    · exact .inr (.inr (.inr (.inl success)))
    · exact .inr (.inr (.inr (.inr (.inl failure))))
    · exact .inr (.inr (.inr (.inr (.inr (.inl retry)))))
  · exact .inr (.inl rfl)
  · rcases writeRegister_rstate addr v { s with agenda := rest } with same | ⟨rfl, command⟩
    · exact .inr (.inl same)
    · rw [command]
      rcases commandWrite_rstate v { s with agenda := rest } with same | ⟨idle, started, bit0⟩ |
        ⟨idle, finished, acknowledged, bit0, bit1⟩
      · exact .inr (.inl same)
      · obtain ⟨_, _, _, _, waiting⟩ := inv.idle idle
        exact .inr (.inr (.inl ⟨idle, waiting, started, v, rest, ha, bit0⟩))
      · exact .inr (.inr (.inr (.inr (.inr (.inr ⟨idle, finished, acknowledged, v, rest, ha, bit0, bit1⟩)))))
  · exact .inl ⟨rest, ha, rfl⟩

/-! The flags. -/

section Flags

variable {s t : State}

theorem endBit_flags (s : State) : (endBit s).okIf = s.okIf ∧ (endBit s).failIf = s.failIf := by
  unfold endBit
  split <;> exact ⟨rfl, rfl⟩

/-- A tick leaves OK_IF, or sets it at a success (60_exceptions.md R164). -/
theorem TickOutcome.okIf (h : TickOutcome s t) :
    t.okIf = s.okIf ∨
      (t.okIf = true ∧ s.pc = .validate ∧ s.x.b4 = checksum s.x ∧ t.rstate = .success) := by
  cases h with
  | idles | counts | drivesOpposite | releases | settles | retries | ackASeen | ackBSeen | ackCSeen | bitRises
  | bitMeasured | timesOut | mismatches =>
    exact .inl rfl
  | bitEnds => exact .inl (endBit_flags s).1
  | validates hp agrees => exact .inr ⟨rfl, hp, agrees.symm, rfl⟩

/-- A tick leaves FAIL_IF, or sets it at a failure (60_exceptions.md R164). -/
theorem TickOutcome.failIf (h : TickOutcome s t) :
    t.failIf = s.failIf ∨
      (t.failIf = true ∧ (waitPhaseOf s.pc ∨ s.pc = .validate) ∧ t.rstate = .failure ∧ t.reason ≠ .none ∧
        (t.pc = .idle ∨ t.pc = .backoff)) := by
  cases h with
  | idles | counts | drivesOpposite | releases | settles | retries | ackASeen | ackBSeen | ackCSeen | bitRises
  | bitMeasured | validates =>
    exact .inl rfl
  | bitEnds => exact .inl (endBit_flags s).2
  | timesOut r hp hr => exact .inr ⟨rfl, .inl hp, rfl, hr, fail_pc_cases r s⟩
  | mismatches hp => exact .inr ⟨rfl, .inr hp, rfl, nofun, fail_pc_cases _ _⟩

/-- A flag that is set cannot be clear where it is kept. -/
theorem flag_absurd {a b : Bool} {P : Prop} (set : a = true) (clear : b = false) (kept : a = true → b = true) : P :=
  absurd ((kept set).symm.trans clear) (by decide)

/-- A write clears a flag only by a 1 at its bit of `IFLAG` (45_host_interface.md R136). -/
theorem writeRegister_clears_flag (addr : Nat) (v : Word) (s : State) :
    (s.okIf = true → (writeRegister addr v s).okIf = false → addr = 0x08 ∧ v.getLsbD 0 = true) ∧
      (s.failIf = true → (writeRegister addr v s).failIf = false → addr = 0x08 ∧ v.getLsbD 1 = true) := by
  rcases writeRegister_cases addr v s with ⟨_, k⟩ | ⟨ha, k⟩ | ⟨_, k⟩ | ⟨_, _, k⟩ |
    ⟨_, _, _, _, _, _, _, _, _, _, k⟩ | k <;>
    rw [k]
  · obtain ⟨ok, failed⟩ := commandWrite_flags v s
    exact ⟨fun set clear => flag_absurd set clear ok.trans, fun set clear => flag_absurd set clear failed.trans⟩
  · exact ⟨fun set clear => ⟨ha, by simpa [clearFlags, set] using clear⟩,
      fun set clear => ⟨ha, by simpa [clearFlags, set] using clear⟩⟩
  all_goals exact ⟨fun set clear => flag_absurd set clear id, fun set clear => flag_absurd set clear id⟩

end Flags

/-- Settles O54: a tick sets a flag by its outcome and clears none; a write clears one by a written 1 and sets none; a
reset clears both. -/
theorem flagsSetByEngineClearedByHost : Obligations.FlagsSetByEngineClearedByHost := by
  unfold Obligations.FlagsSetByEngineClearedByHost
  intro s t h noSymbol
  rcases step_cases_of_no_symbol h noSymbol with ⟨tick, l, rest, n, outcome⟩ | ⟨v, rest, rfl⟩ |
    ⟨addr, v, rest, ha, rfl⟩ | ⟨rest, ha, rfl⟩
  · have ok := outcome.okIf
    have failed := outcome.failIf
    refine ⟨fun clear set => ?okRises, fun clear set => ?failRises, fun set clear => ?okFalls,
      fun set clear => ?failFalls⟩
    case okRises =>
      exact ok.elim (fun same => flag_absurd set clear same.symm.trans) fun ⟨_, success⟩ => ⟨tick, success⟩
    case failRises =>
      exact failed.elim (fun same => flag_absurd set clear same.symm.trans) fun ⟨_, failure⟩ => ⟨tick, failure⟩
    case okFalls => exact flag_absurd set clear fun was => ok.elim (fun same => same.trans was) And.left
    case failFalls => exact flag_absurd set clear fun was => failed.elim (fun same => same.trans was) And.left
  · exact ⟨fun clear set => flag_absurd set clear id, fun clear set => flag_absurd set clear id,
      fun set clear => flag_absurd set clear id, fun set clear => flag_absurd set clear id⟩
  · obtain ⟨okSet, failSet⟩ := writeRegister_sets_no_flag addr v { s with agenda := rest }
    obtain ⟨okCleared, failCleared⟩ := writeRegister_clears_flag addr v { s with agenda := rest }
    refine ⟨fun clear set => flag_absurd set clear okSet, fun clear set => flag_absurd set clear failSet,
      fun set clear => ?okFalls, fun set clear => ?failFalls⟩
    case okFalls =>
      obtain ⟨rfl, bit0⟩ := okCleared set clear
      exact .inr ⟨v, rest, ha, bit0⟩
    case failFalls =>
      obtain ⟨rfl, bit1⟩ := failCleared set clear
      exact .inr ⟨v, rest, ha, bit1⟩
  · exact ⟨fun _ => nofun, fun _ => nofun, fun _ _ => .inl ⟨rest, ha⟩, fun _ _ => .inl ⟨rest, ha⟩⟩

/-! The result. -/

/-- `t` shows the result of `s` (20_memory.md R50). -/
def SameResult (s t : State) : Prop :=
  t.d = s.d ∧ t.rvalid = s.rvalid ∧ t.chkCalc = s.chkCalc ∧ t.chkRecv = s.chkRecv

theorem SameResult.refl (s : State) : SameResult s s := ⟨rfl, rfl, rfl, rfl⟩

/-- A command other than START leaves the result (45_host_interface.md R133, R134). -/
theorem commandWrite_result {v : Word} {s : State} (noStart : v.getLsbD 0 = false) :
    SameResult s (commandWrite v s) := by
  rw [commandWrite, if_neg (by rw [noStart]; decide)]
  unfold ackCommand
  repeat' split
  all_goals exact .refl s

/-- A write other than START leaves the result (45_host_interface.md R131). -/
theorem writeRegister_result (addr : Nat) (v : Word) (s : State) :
    SameResult s (writeRegister addr v s) ∨ addr = 0x00 ∧ v.getLsbD 0 = true := by
  rcases writeRegister_cases addr v s with ⟨ha, k⟩ | ⟨_, k⟩ | ⟨_, k⟩ | ⟨_, _, k⟩ |
    ⟨_, _, _, _, _, _, _, _, _, _, k⟩ | k <;>
    rw [k]
  · cases h0 : v.getLsbD 0 with
    | true => exact .inr ⟨ha, rfl⟩
    | false => exact .inl (commandWrite_result h0)
  all_goals exact .inl (.refl s)

/-- Settles O56: a valid result stands in IDLE alone, where a tick and a symbol change nothing of the block. -/
theorem resultHeldUntilNextStart : Obligations.ResultHeldUntilNextStart := by
  unfold Obligations.ResultHeldUntilNextStart
  intro s t inv h valid
  obtain ⟨idle, _⟩ := inv.valid valid
  rcases step_cases h with ⟨_, rfl⟩ | ⟨l, rest, _, rfl⟩ | ⟨addr, n, rest, _, _, rfl⟩ |
    ⟨addr, n, v, rest, ha, ⟨rfl, _, _⟩, rfl⟩ | ⟨b, gap, width, rest, _, rfl⟩ | ⟨rest, ha, _⟩
  · rw [tickPhase_idle (s := takeFreeSample s) idle]
    exact .inl (SameResult.refl s)
  · rw [engineTick_idle (s := { s with agenda := rest }) idle]
    exact .inl (SameResult.refl s)
  · exact .inl (SameResult.refl s)
  · rcases writeRegister_result addr v { s with agenda := rest } with same | ⟨rfl, start⟩
    · exact .inl same
    · exact .inr (.inr ⟨v, rest, ha, start⟩)
  · rw [receiveSymbol, runSamples_idle (s := { s with agenda := rest }) idle]
    exact .inl (SameResult.refl s)
  · exact .inr (.inl ⟨rest, ha⟩)

end Sys2Proof.Machine

end
